-- ==== Sys2Proof/Word.lean ====
section
/-! DEFINITION. The two widths of the CORE's data: the 32-bit word and the 8-bit byte (rule R12 of
spec/00_scope.md: "A *word* is 32 bits ... A *byte* is 8 bits"). -/

namespace Sys2Proof

/-- A word: every cipher word, subkey, table entry, checksum and operand register (R11, R12). -/
abbrev Word := BitVec 32

/-- A byte of KEYMEM or DMEM (R12). -/
abbrev Byte := BitVec 8

end Sys2Proof
end

