-- ==== Sys2Proof/Syntax.lean ====
section
/-! DEFINITION. The commands of the CORE as syntax: the seven rows of spec/opcode_table.json (R55 of
spec/30_encoding.md), the Mode they name, and the three fields of the one command format `C` (R53). -/

namespace Sys2Proof

/-- D0's Mode, "enumeration {Encrypt, Decrypt}" (R14). It is also the engine slot's index:
Encrypt = 0 = `ENG[0]`, Decrypt = 1 = `ENG[1]` (R19, R53, decision D31). -/
inductive Mode where
  /-- `ENC`: Encrypt, slot `ENG[0]`. -/
  | enc
  /-- `DEC`: Decrypt, slot `ENG[1]`. -/
  | dec
deriving DecidableEq, Repr

/-- The seven commands (R55). A command word carries no operand other than `M` (R57): every other
operand is in a register or a memory that the host loaded beforehand. -/
inductive Instr where
  /-- `BE_INIT m`: D0's `init(mode, key)` (R91). -/
  | beInit (m : Mode)
  /-- `BE_BLKSZ`: D0's `blockSize()` (R92). -/
  | beBlksz
  /-- `BE_PROC m`: D0's `processBlock(input, inOffset, output, outOffset)` (R93). -/
  | beProc (m : Mode)
  /-- `PC_NEW`: D0's `new(key)` (R100). -/
  | pcNew
  /-- `PC_CRYPT`: D0's `crypt(buffer)` (R102). -/
  | pcCrypt
  /-- `PC_DECRYPT`: D0's `decrypt(buffer)` (R104). -/
  | pcDecrypt
  /-- `PC_CHECKSUM`: D0's `checksum(buffer)` (R106). -/
  | pcChecksum
deriving DecidableEq, Repr

/-- The fields of a word written to `REG.CMD`, format `C` (R53). -/
structure CommandFields where
  /-- `ZERO`, bits 31:5. -/
  zero : BitVec 27
  /-- `M`, bit 4: 0 = Encrypt = `ENG[0]`, 1 = Decrypt = `ENG[1]`. -/
  m : BitVec 1
  /-- `OP`, bits 3:0. -/
  op : BitVec 4
deriving DecidableEq, Repr

end Sys2Proof
end

