-- ==== Sys2Proof/WellFormed.lean ====
section
/-! DEFINITION. The three checks that R54 of spec/30_encoding.md makes of a word written to `REG.CMD`
before it selects a command. Every value of `Instr` passes them (its operand is a Mode, and only the
commands that have one take one), so the checks stand on the fields of the word. -/

namespace Sys2Proof

/-- "If `ZERO` is not 0 ... the word encodes no command" (R54). -/
def CommandFields.zeroOk (f : CommandFields) : Bool := f.zero == 0

/-- "or `OP` is not one of 1 to 7" (R54); `OP` = 0 and 8 to 15 are reserved (R56). -/
def CommandFields.opOk (f : CommandFields) : Bool := 1 ≤ f.op.toNat && f.op.toNat ≤ 7

/-- "or `M` = 1 with `OP` not in {1, 3}" (R54). -/
def CommandFields.modeOk (f : CommandFields) : Bool :=
  f.m == 0 || f.op == 1 || f.op == 3

/-- The fields encode a command: none of R54's three grounds for refusing the word holds. -/
def CommandFields.wellFormed (f : CommandFields) : Bool := f.zeroOk && f.opOk && f.modeOk

end Sys2Proof
end

