-- ==== Sys2Proof/Decode.lean ====
section
/-! DEFINITION. The decoder of a word written to `REG.CMD` and the encoder beside it (R53 to R56 of
spec/30_encoding.md). The decoder is total: every word gives one command or a named refusal. -/

namespace Sys2Proof

/-- Why a word encodes no command (R54, R56). The CORE reports all three as `E_BADCMD`. -/
inductive DecodeError where
  /-- A bit of `ZERO`, bits 31:5, is set. -/
  | reservedBits
  /-- `OP` is 0 or 8 to 15. -/
  | reservedOpcode
  /-- `M` = 1 in a command that takes no mode. -/
  | reservedMode
deriving DecidableEq, Repr

/-- `M` as a Mode: 0 = Encrypt, 1 = Decrypt (R53). -/
def Mode.ofBit (b : BitVec 1) : Mode := if b = 0 then .enc else .dec

/-- A Mode as the bit `M` (R53). -/
def Mode.toBit : Mode → BitVec 1
  | .enc => 0
  | .dec => 1

/-- The fields of a command word (R54: `OP <- w[3:0]`, `M <- w[4]`, `ZERO <- w[31:5]`). -/
def CommandFields.ofWord (w : Word) : CommandFields :=
  { zero := w.extractLsb' 5 27, m := w.extractLsb' 4 1, op := w.extractLsb' 0 4 }

/-- The word with these fields, `ZERO` in bits 31:5, `M` in bit 4 and `OP` in bits 3:0 (R53). -/
def CommandFields.toWord (f : CommandFields) : Word := f.zero ++ f.m ++ f.op

/-- A command that takes no mode: `M` "must be 0 in every other command" (R53). -/
def CommandFields.noMode (f : CommandFields) (i : Instr) : Except DecodeError Instr :=
  if f.m = 0 then .ok i else .error .reservedMode

/-- The opcode map (R55) on the fields of a word, with R54's refusals. -/
def CommandFields.decode (f : CommandFields) : Except DecodeError Instr :=
  if f.zero = 0 then
    match f.op.toNat with
    | 1 => .ok (.beInit (Mode.ofBit f.m))
    | 2 => f.noMode .beBlksz
    | 3 => .ok (.beProc (Mode.ofBit f.m))
    | 4 => f.noMode .pcNew
    | 5 => f.noMode .pcCrypt
    | 6 => f.noMode .pcDecrypt
    | 7 => f.noMode .pcChecksum
    | _ => .error .reservedOpcode
  else .error .reservedBits

/-- The command that a word written to `REG.CMD` encodes, or why it encodes none (R54). -/
def decode (w : Word) : Except DecodeError Instr := (CommandFields.ofWord w).decode

/-- The fields of a command (R55), from the encoding lines of R91, R92, R93, R100, R102, R104 and R106. -/
def Instr.fields : Instr → CommandFields
  | .beInit m => { zero := 0, m := m.toBit, op := 1 }
  | .beBlksz => { zero := 0, m := 0, op := 2 }
  | .beProc m => { zero := 0, m := m.toBit, op := 3 }
  | .pcNew => { zero := 0, m := 0, op := 4 }
  | .pcCrypt => { zero := 0, m := 0, op := 5 }
  | .pcDecrypt => { zero := 0, m := 0, op := 6 }
  | .pcChecksum => { zero := 0, m := 0, op := 7 }

/-- The command word of a command (R55). -/
def encode (i : Instr) : Word := i.fields.toWord

/-- R54's checks on a command's own fields; every command passes them. -/
def Instr.wellFormed (i : Instr) : Bool := i.fields.wellFormed

/-- The instruction the decoder reads from `w` given as spec/opcode_table.json numbers its bits. A
command is one 32-bit word (R53), so the bits above `nbits` are 0 and no wider instruction exists. -/
def decodeTableWord (nbits w : Nat) : Option Instr :=
  if nbits ≤ 32 then
    match decode (BitVec.ofNat 32 (w % 2 ^ nbits)) with
    | .ok i => some i
    | .error _ => none
  else none

end Sys2Proof
end

