-- ==== Sys2Proof/Machine/State.lean ====
section
/-! DEFINITION. The state of the CORE (R15 of spec/10_state.md: "The complete architectural state of the
CORE"), the host accesses that drive it (R60 of spec/30_encoding.md), and the state after reset (R34). -/

namespace Sys2Proof.Machine

/-- A byte-addressed memory: the bytes written since reset as (address, byte) pairs, addresses
strictly rising. An unlisted address holds no listed byte; what a read of it gives is said once, by
`State.dmemByte` and `State.keymemByte` (R128). Log entry 3. -/
abbrev Memory := List Host.Cell

/-- D0's CipherState: "one 18-element array of 32-bit words (subkeys) and four 256-element arrays of
32-bit words (substitution tables)" (R18). -/
structure CipherState where
  /-- `P[0..17]`, the subkey array. -/
  p : Vector Word 18
  /-- `S[0..3][0..255]`, the substitution tables. -/
  s : Vector (Vector Word 256) 4
deriving DecidableEq, Repr

/-- A Block Engine slot `ENG[e]` (R19, R20). Its MODE is hardwired to the slot's index and is no
state of its own. -/
structure Engine where
  /-- `ENG[e].P` and `ENG[e].S`. -/
  tables : CipherState
  /-- `ENG[e].INIT`: the slot holds a derived CipherState (R20). -/
  init : Bool
deriving DecidableEq, Repr

/-- One access of the host to the CORE (R60). The host's accesses are the CORE's program (R17, R140):
nothing else makes it act. -/
inductive Access where
  /-- `WR`: write a 32-bit word at an offset of `REG` (R21); at offset 0x00 it is `CMD` (R22). -/
  | wr (off : Nat) (v : Word)
  /-- `RD`: read the 32-bit word at an offset of `REG` (R21). -/
  | rd (off : Nat)
  /-- `WRK`: write one byte to `KEYMEM[i]`, offset 0x40 + i (R24). -/
  | wrk (i : Nat) (b : Byte)
  /-- Read one byte of `KEYMEM[i]`, which is read-write (R21). -/
  | rdk (i : Nat)
  /-- `WRM`: write one byte to `DMEM[a]` (R27). -/
  | wrm (a : Nat) (b : Byte)
  /-- `RDM`: read one byte of `DMEM[a]` (R27). -/
  | rdm (a : Nat)
  /-- `RESET`: the reset input (R127). -/
  | reset
deriving DecidableEq, Repr

/-- What a host read returned. -/
inductive Reply where
  /-- The word an `RD` returned. -/
  | word (w : Word)
  /-- The byte a read of KEYMEM or DMEM returned. -/
  | byte (b : Byte)
deriving DecidableEq, Repr

/-- Why the machine stops. -/
inductive Fault where
  /-- The host reads or writes `DMEM[a]` with `a` at or above `MEM_BYTES`: that byte does not exist
  (R27; R13: `MemRead` and `MemWrite` are "defined only for 0 <= a < `MEM_BYTES`"). Raised by a host
  access only, never by a command. Safe: the spec gives such an access no effect. Log entry 8. -/
  | dmemAddress (a : Nat)
deriving DecidableEq, Repr

/-- Why the machine gives a host access no meaning. -/
inductive Refusal where
  /-- The command has no meaning in this model yet; raised by `exec` alone. Safe. No command of this
  model ends so. -/
  | notModelled (mnemonic : String)
  /-- A word access at an offset inside the KEYMEM window, which the host reaches by "byte access
  only" (R32). Raised by the host's `WR` and `RD` only. Safe: the spec gives it no effect. Log
  entry 9. -/
  | wordAccessToKeymem (off : Nat)
deriving DecidableEq, Repr

/-- The state of the CORE (R15) and, in the last four fields, the model's own record of what lies
outside it. -/
structure State where
  /-- `ENG[0]`, the Encrypt engine (R19). -/
  eng0 : Engine
  /-- `ENG[1]`, the Decrypt engine (R19). -/
  eng1 : Engine
  /-- `REG.STATUS.ERR` (R23). -/
  err : BitVec 4
  /-- `REG.RESULT` (R25). -/
  result : Word
  /-- `REG.KEYLEN.LEN`, bits 5:0 (R24). -/
  keylen : BitVec 6
  /-- `REG.IN_BASE` (R26). -/
  inBase : Word
  /-- `REG.IN_LEN` (R26). -/
  inLen : Word
  /-- `REG.IN_OFF` (R26). -/
  inOff : Word
  /-- `REG.OUT_BASE` (R26). -/
  outBase : Word
  /-- `REG.OUT_LEN` (R26). -/
  outLen : Word
  /-- `REG.OUT_OFF` (R26). -/
  outOff : Word
  /-- The bytes of `KEYMEM[0..55]` written since reset (R24). -/
  keymem : Memory
  /-- The bytes of `DMEM[0..MEM_BYTES-1]` written since reset (R27). -/
  dmem : Memory
  /-- `MEM_BYTES` (R11): the OPEN parameter of this machine. No step changes it. Log entry 2. -/
  memBytes : Nat
  /-- How many resets this machine has had; it numbers the free bytes of R128. Log entry 3. -/
  epoch : Nat
  /-- The host's accesses still to come, the next one first. Log entry 1. -/
  pending : List Access
  /-- What the host's reads returned, the oldest first. Log entry 1. -/
  replies : List Reply
deriving DecidableEq, Repr

/-- The tables of a slot that nothing has derived. R34 fixes no content and R128(a) lets a model give
them any value; this model names zero. DESIGN CHOICE, log entry 4. -/
def CipherState.unspecified : CipherState :=
  { p := Vector.replicate 18 0, s := Vector.replicate 4 (Vector.replicate 256 0) }

/-- A slot after reset: `INIT` = 0 (R20, R34). -/
def Engine.reset : Engine := { tables := CipherState.unspecified, init := false }

/-- The machine right after reset: both `INIT` flags 0, `STATUS` 0, `RESULT` 0, `KEYLEN` 0, the six
operand registers 0 (R34, R127), and no byte of KEYMEM or DMEM written. -/
def State.reset : State where
  eng0 := Engine.reset
  eng1 := Engine.reset
  err := 0
  result := 0
  keylen := 0
  inBase := 0
  inLen := 0
  inOff := 0
  outBase := 0
  outLen := 0
  outOff := 0
  keymem := []
  dmem := []
  memBytes := Config.memBytes
  epoch := 0
  pending := []
  replies := []

end Sys2Proof.Machine
end

