-- ==== Sys2Proof/Machine/Ops.lean ====
section
/-! DEFINITION. The named operations over memory, engine slots and the result registers: the primitives
of R13 (spec/00_scope.md) and the two ways a command ends, `raise` and `done` (R113 of
spec/60_exceptions.md). -/

namespace Sys2Proof.Machine

/-! ## Memory as a canonical list of bytes -/

/-- The listed byte at an address, if any. -/
def Memory.byteAt? : Memory → Nat → Option Byte
  | [], _ => none
  | (k, v) :: rest, a => if a = k then some v else Memory.byteAt? rest a

/-- List a byte at an address, in place of what stood there; the order of addresses is kept. -/
def Memory.store : Memory → Nat → Byte → Memory
  | [], a, b => [(a, b)]
  | (k, v) :: rest, a, b =>
    if a < k then (a, b) :: (k, v) :: rest
    else if a = k then (a, b) :: rest
    else (k, v) :: Memory.store rest a b

/-- Every listed address lies at or above `low` and the addresses rise strictly. -/
def Memory.risingFrom : Nat → Memory → Bool
  | _, [] => true
  | low, (k, _) :: rest => decide (low ≤ k) && Memory.risingFrom (k + 1) rest

/-- The canonical form: listed addresses strictly rising. A listed byte never equals what an unlisted
address lists, for an unlisted address lists nothing. -/
def Memory.wf (m : Memory) : Bool := Memory.risingFrom 0 m

/-- Every listed address lies below `n`. -/
def Memory.below (n : Nat) (m : Memory) : Bool := m.all fun c => decide (c.1 < n)

/-! ## The bytes of KEYMEM and DMEM -/

/-- `MemRead(a, 1)` (R13). A byte that nothing has written since reset is the free byte of R128(b),
arbitrary but fixed until the next reset (R46). -/
def State.dmemByte (s : State) (a : Nat) : Byte :=
  (s.dmem.byteAt? a).getD (Config.freeDmem s.epoch a)

/-- `KEYMEM[i]` (R13), with R128(b)'s free byte where nothing has been written since reset. -/
def State.keymemByte (s : State) (i : Nat) : Byte :=
  (s.keymem.byteAt? i).getD (Config.freeKeymem s.epoch i)

/-- `MemWrite(a, 1, b)` (R13). -/
def State.storeDmem (s : State) (a : Nat) (b : Byte) : State :=
  { s with dmem := s.dmem.store a b }

/-- A write of one byte to `KEYMEM[i]` (R24). -/
def State.storeKeymem (s : State) (i : Nat) (b : Byte) : State :=
  { s with keymem := s.keymem.store i b }

/-! ## Words of DMEM and of the key -/

/-- `{b3, b2, b1, b0}`: four bytes as a word, `b3` most significant (R12). -/
def wordOfBytes (b3 b2 b1 b0 : Byte) : Word := b3 ++ b2 ++ b1 ++ b0

/-- Byte `i` of a word, byte 0 its least significant (R12). -/
def byteOfWord (w : Word) (i : Nat) : Byte := w.extractLsb' (8 * i) 8

/-- `LE32(a)`: the word whose least significant byte is at address `a` (R13, R39). -/
def State.le32 (s : State) (a : Nat) : Word :=
  wordOfBytes (s.dmemByte (a + 3)) (s.dmemByte (a + 2)) (s.dmemByte (a + 1)) (s.dmemByte a)

/-- The four bytes of a word at `a` to `a + 3`, the least significant at `a` (R13, R39). -/
def Memory.putLe32 (m : Memory) (a : Nat) (w : Word) : Memory :=
  (((m.store a (byteOfWord w 0)).store (a + 1) (byteOfWord w 1)).store
    (a + 2) (byteOfWord w 2)).store (a + 3) (byteOfWord w 3)

/-- `PutLE32(a, w)` (R13). -/
def State.putLe32 (s : State) (a : Nat) (w : Word) : State :=
  { s with dmem := s.dmem.putLe32 a w }

/-- `BE32(b0, b1, b2, b3)`: `b0` becomes the most significant byte (R13, R40). -/
def be32 (b0 b1 b2 b3 : Byte) : Word := wordOfBytes b0 b1 b2 b3

/-! ## Engine slots -/

/-- `ENG[e]`: the slot's index is the Mode, Encrypt = 0 and Decrypt = 1 (R19). -/
def State.eng (s : State) : Mode → Engine
  | .enc => s.eng0
  | .dec => s.eng1

/-- Write slot `ENG[e]`. -/
def State.setEng (s : State) (m : Mode) (e : Engine) : State :=
  match m with
  | .enc => { s with eng0 := e }
  | .dec => { s with eng1 := e }

/-! ## How a command ends -/

/-- The error classes (R112): D0's four and the five that the spec adds. -/
inductive ErrClass where
  /-- Uninitialized-use: the slot the command uses has `INIT` = 0. -/
  | uninit
  /-- Invalid-length: the buffer's length is not one the command takes. -/
  | length
  /-- Buffer-bounds: a block does not fit behind its offset. -/
  | bounds
  /-- Empty-key: `KEYLEN` = 0. -/
  | emptyKey
  /-- `E_KEYLEN`: `KEYLEN` in 57 .. 63. -/
  | keyLen
  /-- `E_REINIT`: the slot to be initialised already has `INIT` = 1. -/
  | reinit
  /-- `E_ADDR`: a descriptor reaches past `MEM_BYTES`. -/
  | addr
  /-- `E_OVERLAP`: input and output ranges differ and intersect. -/
  | overlap
  /-- `E_BADCMD`: the word encodes no command. -/
  | badCmd
deriving DecidableEq, Repr

/-- The code of a class, as written to `STATUS.ERR` (R112). -/
def ErrClass.code : ErrClass → BitVec 4
  | .uninit => 1
  | .length => 2
  | .bounds => 3
  | .emptyKey => 4
  | .keyLen => 5
  | .reinit => 6
  | .addr => 7
  | .overlap => 8
  | .badCmd => 9

/-- Write the two registers that every command writes (R25, R31). -/
def State.withStatus (s : State) (err : BitVec 4) (result : Word) : State :=
  { s with err := err, result := result }

/-- `raise <Class>`: `STATUS.ERR <- code(<Class>)`, `RESULT <- 0`, every other piece of state as it was
before the command (R13, R113). -/
def State.raise (s : State) (c : ErrClass) : State := s.withStatus c.code 0

/-- `done(v)`: end the command with success, `STATUS.ERR <- 0`, `RESULT <- v` (R13). -/
def State.done (s : State) (v : Word) : State := s.withStatus 0 v

/-- The first test of a list that holds names the class the command raises (R114: "Exactly one code is
reported: the first in the command's list"). -/
def firstError : List (Bool × ErrClass) → Option ErrClass
  | [] => none
  | (holds, c) :: rest => if holds then some c else firstError rest

/-- End a command from its ordered tests: raise the first that holds in the state before the command,
else take the state its effects give (R64, R113). -/
def finish (tests : List (Bool × ErrClass)) (s done : State) :
    Host.Outcome State Fault Refusal :=
  match firstError tests with
  | some c => .next (s.raise c)
  | none => .next done

end Sys2Proof.Machine
end

