-- ==== Sys2Proof/Machine/Flags.lean ====
section
/-! DEFINITION. The status bits of the CORE (R31 of spec/10_state.md: it has no arithmetic flags). What
a command reports is `STATUS` as the host reads it (R23) and the boolean in `RESULT` (R25). -/

namespace Sys2Proof.Machine

/-- `STATUS` (R23): `BUSY` in bit 31 reads 0 because a command is one atomic step (R133), bits 30:10
and 7:4 read 0, `INIT1` and `INIT0` are copies of the slots' `INIT` in bits 9 and 8, and `ERR` is in
bits 3:0. -/
def State.status (s : State) : Word :=
  0#1 ++ 0#21 ++ BitVec.ofBool s.eng1.init ++ BitVec.ofBool s.eng0.init ++ 0#4 ++ s.err

/-- D0's boolean as a `RESULT`: `true` = 1, `false` = 0 (R25, decision D31). -/
def boolWord (b : Bool) : Word := if b then 1 else 0

end Sys2Proof.Machine
end

