-- ==== Sys2Proof/Machine/Feistel.lean ====
section
/-! DEFINITION. The Feistel Core (spec/42_feistel_core.md): the round function `F` (R80), the forward
transform `FWD` (R82) and the inverse transform `INV` (R84), as pure functions of a CipherState (R79). -/

namespace Sys2Proof.Machine

/-- `S[t][j]`, with `j` a byte, so that every index is in range (R80). -/
def CipherState.entry (c : CipherState) (t : Fin 4) (j : Byte) : Word := (c.s.get t).get j.toFin

/-- The round function (R80): "`F(x) = ((S0[a] + S1[b] mod 2^32) XOR S2[c]) + S3[d] mod 2^32`", with
a, b, c, d the bytes of `x`, most significant first (R42). -/
def roundF (c : CipherState) (x : Word) : Word :=
  ((c.entry 0 (byteOfWord x 3) + c.entry 1 (byteOfWord x 2)) ^^^ c.entry 2 (byteOfWord x 1)) +
    c.entry 3 (byteOfWord x 0)

/-- One round (R87): the half `h` is changed by one application of `F` to the other half and one
subkey. -/
def oneRound (c : CipherState) (h other : Word) (i : Fin 18) : Word :=
  h ^^^ roundF c other ^^^ c.p.get i

/-- One iteration of `FWD`'s loop, on (xl, xr): `xr <- xr ^ F(xl) ^ P[i]`, then
`xl <- xl ^ F(xr) ^ P[i+1]` with the `xr` just computed (R82). -/
def fwdIteration (c : CipherState) (h : Word × Word) (i : Fin 18) : Word × Word :=
  let xr := oneRound c h.2 h.1 i
  let xl := oneRound c h.1 xr (i + 1)
  (xl, xr)

/-- `FWD(e, xl, xr)` (R82): whitening with `P[0]`, the 8 iterations, whitening with `P[17]`, and the
output swapped. -/
def fwd (c : CipherState) (xl xr : Word) : Word × Word :=
  let h := [1, 3, 5, 7, 9, 11, 13, 15].foldl (fwdIteration c) (xl ^^^ c.p.get 0, xr)
  (h.2 ^^^ c.p.get 17, h.1)

/-- One iteration of `INV`'s loop, on (xl, xr): `xr <- xr ^ F(xl) ^ P[i]`, then
`xl <- xl ^ F(xr) ^ P[i-1]` (R84). -/
def invIteration (c : CipherState) (h : Word × Word) (i : Fin 18) : Word × Word :=
  let xr := oneRound c h.2 h.1 i
  let xl := oneRound c h.1 xr (i - 1)
  (xl, xr)

/-- `INV(e, xl, xr)` (R84): whitening with `P[17]`, the subkeys downward from 16 to 1, whitening with
`P[0]`, and the output swapped. It is a traversal of its own over the same subkeys (R86). -/
def inv (c : CipherState) (xl xr : Word) : Word × Word :=
  let h := [16, 14, 12, 10, 8, 6, 4, 2].foldl (invIteration c) (xl ^^^ c.p.get 17, xr)
  (h.2 ^^^ c.p.get 0, h.1)

/-- The traversal that a slot runs: slot 0 always `FWD`, slot 1 always `INV` (R94). -/
def transform (m : Mode) (c : CipherState) (xl xr : Word) : Word × Word :=
  match m with
  | .enc => fwd c xl xr
  | .dec => inv c xl xr

end Sys2Proof.Machine
end

