-- ==== Sys2Proof/Machine/Operands.lean ====
section
/-! DEFINITION. The operand forms of the commands (R36, R37 of spec/20_memory.md; R57, R58 of
spec/30_encoding.md): the key, and the byte addresses and ranges that the operand registers name. All
sums are in the natural numbers, with no wrap-around (R12). -/

namespace Sys2Proof.Machine

/-! ## The key -/

/-- D0's Key, a byte sequence that is never empty: `DERIVE` has no meaning for the empty one (R70,
R76). -/
structure Key where
  /-- `key[0]`. -/
  first : Byte
  /-- `key[1..n-1]`. -/
  rest : List Byte
deriving DecidableEq, Repr

/-- `key[0..n-1]`. -/
def Key.bytes (k : Key) : List Byte := k.first :: k.rest

/-- The key of `BE_INIT` and `PC_NEW`: `KEYMEM[0], ..., KEYMEM[KEYLEN-1]` (R24). It is used only where
`KEYLEN` is not 0. -/
def State.key (s : State) : Key :=
  { first := s.keymemByte 0
    rest := (List.range (s.keylen.toNat - 1)).map fun i => s.keymemByte (i + 1) }

/-! ## Addresses -/

/-- `ai`, the address of the block that `BE_PROC` reads: `IN_BASE + IN_OFF` (R58, R93). -/
def State.procIn (s : State) : Nat := s.inBase.toNat + s.inOff.toNat

/-- `ao`, the address of the block that `BE_PROC` writes: `OUT_BASE + OUT_OFF` (R58, R93). -/
def State.procOut (s : State) : Nat := s.outBase.toNat + s.outOff.toNat

/-- The address of the checksum word: `IN_BASE + n - 8` (R48, R106). It is used only where n is at
least 8. -/
def State.trailer (s : State) : Nat := s.inBase.toNat + s.inLen.toNat - 8

/-! ## The tests on ranges -/

/-- A block of 8 bytes does not fit behind its offset: `off + 8 > len` (R93, R112 code 3). -/
def pastLength (off len : Word) : Bool := decide (len.toNat < off.toNat + 8)

/-- The descriptor of `n` bytes at base `b` reaches past `MEM_BYTES`: `b + n > MEM_BYTES` (R37). -/
def State.outside (s : State) (b : Word) (n : Nat) : Bool :=
  decide (s.memBytes < b.toNat + n)

/-- The ranges of `n` bytes at `a` and at `b` differ and intersect (R95, R102). -/
def partialOverlap (a b n : Nat) : Bool := decide (a ≠ b ∧ a < b + n ∧ b < a + n)

end Sys2Proof.Machine
end

