-- ==== Sys2Proof/Machine/KeySchedule.lean ====
section
/-! DEFINITION. The key schedule `DERIVE` (spec/41_key_schedule.md, R71), as a function from a key to a
CipherState: its result depends on nothing but the key bytes and the constants (R70). -/

namespace Sys2Proof.Machine

/-! ## Step 1 and step 2: copy the constants, fold the key into the subkeys -/

/-- The key pointer's next place: `k <- k + 1`, and `if k >= n: k <- 0` (R71). -/
def Key.advance (key : Key) (k : Fin key.bytes.length) : Fin key.bytes.length :=
  if h : k.val + 1 < key.bytes.length then ⟨k.val + 1, h⟩ else ⟨0, Nat.succ_pos _⟩

/-- Take one key byte: `d <- (d << 8) | key[k]`, and move the pointer (R71, R73). -/
def Key.takeByte (key : Key) (g : Word × Fin key.bytes.length) : Word × Fin key.bytes.length :=
  ((g.1 <<< 8) ||| (key.bytes.get g.2).setWidth 32, key.advance g.2)

/-- The word folded into one subkey: four key bytes from the pointer on, big-endian, and where the
pointer stands then (R73, R40). -/
def Key.takeWord (key : Key) (k : Fin key.bytes.length) : Word × Fin key.bytes.length :=
  key.takeByte (key.takeByte (key.takeByte (key.takeByte (0, k))))

/-- Fold into subkey `i`: `P[i] <- P[i] ^ d`, on the subkeys and the key pointer (R71). -/
def Key.foldInto (key : Key) (g : Vector Word 18 × Fin key.bytes.length) (i : Fin 18) :
    Vector Word 18 × Fin key.bytes.length :=
  let d := key.takeWord g.2
  (g.1.set i (g.1.get i ^^^ d.1), d.2)

/-- The subkey array after step 2 (R73): the constants with the key folded in, one word per subkey, the
key pointer not reset between subkeys. -/
def Key.foldedSubkeys (key : Key) : Vector Word 18 :=
  ((List.finRange 18).foldl key.foldInto (Config.pInit, ⟨0, Nat.succ_pos _⟩)).1

/-- The CipherState after steps 1 and 2: the substitution tables are the constants (R72, R73). -/
def Key.folded (key : Key) : CipherState := { p := key.foldedSubkeys, s := Config.sInit }

/-! ## Step 3: the chained self-encryption -/

/-- Step 3 in progress: the tables as they stand, and the pair that the last transform gave (R74). -/
structure Chain where
  /-- The CipherState, partly rewritten. -/
  c : CipherState
  /-- The pair (xl, xr). -/
  x : Word × Word
deriving DecidableEq, Repr

/-- Store a pair in slots `s` and `s + 1` of a table (R74). -/
def putPair (v : Vector Word n) (s : Nat) (x : Word × Word) : Vector Word n :=
  (v.setIfInBounds s x.1).setIfInBounds (s + 1) x.2

/-- One transform over the subkey array: the pair goes into `P[2j]` and `P[2j+1]` and feeds the next
transform (R71, R74). -/
def Chain.overSubkeys (g : Chain) (j : Nat) : Chain :=
  let x := fwd g.c g.x.1 g.x.2
  { c := { g.c with p := putPair g.c.p (2 * j) x }, x := x }

/-- One transform over substitution table `t`: the pair goes into `S[t][2j]` and `S[t][2j+1]` (R71,
R74). -/
def Chain.overTable (t : Fin 4) (g : Chain) (j : Nat) : Chain :=
  let x := fwd g.c g.x.1 g.x.2
  { c := { g.c with s := g.c.s.set t (putPair (g.c.s.get t) (2 * j) x) }, x := x }

/-- The 128 transforms over substitution table `t` (R74). -/
def Chain.throughTable (g : Chain) (t : Fin 4) : Chain :=
  (List.range 128).foldl (Chain.overTable t) g

/-- Step 3 (R74): 9 transforms over `P`, then 128 over each of `S[0]` to `S[3]`, in one chain that
starts from (0, 0). -/
def Chain.run (c : CipherState) : Chain :=
  [0, 1, 2, 3].foldl Chain.throughTable
    ((List.range 9).foldl Chain.overSubkeys { c := c, x := (0, 0) })

/-- `DERIVE(e, key)` (R71): the CipherState that slot e holds after it. Proofs unfold
it by name only. -/
@[irreducible] def derive (key : Key) : CipherState := (Chain.run key.folded).c

end Sys2Proof.Machine
end

