-- ==== Sys2Proof/Machine/BlockEngine.lean ====
section
/-! DEFINITION. The Block Engine commands `BE_INIT`, `BE_BLKSZ` and `BE_PROC` (spec/43_block_engine.md),
and the single-block datapath `BLOCK` that they share with the Packet Cryptor (R94). -/

namespace Sys2Proof.Machine

/-- `DERIVE(e, KEYMEM[0..KEYLEN-1])` and `ENG[e].INIT <- 1` (R91, R100). -/
def State.initEngine (s : State) (m : Mode) : State :=
  s.setEng m { tables := derive s.key, init := true }

/-- The block at `a`, as two little-endian words: D0's *left* in the four lower addresses (R39). -/
def State.loadBlock (s : State) (a : Nat) : Word × Word := (s.le32 a, s.le32 (a + 4))

/-- Store a pair as the block at `a`, the first word in the four lower addresses (R39). -/
def State.storeBlock (s : State) (a : Nat) (x : Word × Word) : State :=
  { s with dmem := (s.dmem.putLe32 a x.1).putLe32 (a + 4) x.2 }

/-- `BLOCK(e, ai, ao)` (R94): the eight input bytes are read, transformed by the slot's traversal, and
the pair is stored in the order the transform returns it. -/
def State.block (s : State) (m : Mode) (ai ao : Nat) : State :=
  s.storeBlock ao (transform m (s.eng m).tables (s.loadBlock ai).1 (s.loadBlock ai).2)

/-- The tests of `BE_INIT m`, in order (R91, R114). -/
def beInitTests (m : Mode) (s : State) : List (Bool × ErrClass) :=
  [ ((s.eng m).init, .reinit),
    (decide (s.keylen.toNat = 0), .emptyKey),
    (decide (56 < s.keylen.toNat), .keyLen) ]

/-- `BE_INIT m` (R91). -/
def execBeInit (m : Mode) (s : State) : Host.Outcome State Fault Refusal :=
  finish (beInitTests m s) s ((s.initEngine m).done 0)

/-- `BE_BLKSZ` (R92): "`blockSize()` returns 8 (constant)". -/
def execBeBlksz (s : State) : Host.Outcome State Fault Refusal :=
  finish [] s (s.done 8)

/-- The tests of `BE_PROC m`, in order (R93, R114). -/
def beProcTests (m : Mode) (s : State) : List (Bool × ErrClass) :=
  [ (!(s.eng m).init, .uninit),
    (pastLength s.inOff s.inLen, .bounds),
    (pastLength s.outOff s.outLen, .bounds),
    (s.outside s.inBase s.inLen.toNat, .addr),
    (s.outside s.outBase s.outLen.toNat, .addr),
    (partialOverlap s.procIn s.procOut 8, .overlap) ]

/-- `BE_PROC m` (R93). -/
def execBeProc (m : Mode) (s : State) : Host.Outcome State Fault Refusal :=
  finish (beProcTests m s) s ((s.block m s.procIn s.procOut).done 0)

end Sys2Proof.Machine
end

