-- ==== Sys2Proof/Machine/PacketCryptor.lean ====
section
/-! DEFINITION. The Packet Cryptor commands `PC_NEW`, `PC_CRYPT`, `PC_DECRYPT` and `PC_CHECKSUM`
(spec/44_packet_cryptor.md). -/

namespace Sys2Proof.Machine

/-- The tests of `PC_NEW`, in order (R100, R114). -/
def pcNewTests (s : State) : List (Bool × ErrClass) :=
  [ (s.eng0.init || s.eng1.init, .reinit),
    (decide (s.keylen.toNat = 0), .emptyKey),
    (decide (56 < s.keylen.toNat), .keyLen) ]

/-- `PC_NEW` (R100): both slots are derived from the key, each into its own storage. -/
def execPcNew (s : State) : Host.Outcome State Fault Refusal :=
  finish (pcNewTests s) s (((s.initEngine .enc).initEngine .dec).done 0)

/-- `n` blocks in increasing offset order, the first read at `ai` and written at `ao` (R102). -/
def State.blocks (s : State) (m : Mode) (ai ao : Nat) : Nat → State
  | 0 => s
  | n + 1 => (s.block m ai ao).blocks m (ai + 8) (ao + 8) n

/-- The tests of `PC_CRYPT` (slot 0) and `PC_DECRYPT` (slot 1), in order (R102, R104, R114). -/
def bufferTests (m : Mode) (s : State) : List (Bool × ErrClass) :=
  [ (decide (s.inLen.toNat = 0 ∨ s.inLen.toNat % 8 ≠ 0), .length),
    (!(s.eng m).init, .uninit),
    (s.outside s.inBase s.inLen.toNat, .addr),
    (s.outside s.outBase s.inLen.toNat, .addr),
    (partialOverlap s.inBase.toNat s.outBase.toNat s.inLen.toNat, .overlap) ]

/-- The whole-buffer transform of R102 and R104, on the slot of mode `m`; `IN_OFF`, `OUT_OFF` and
`OUT_LEN` are ignored. -/
def transformBuffer (m : Mode) (s : State) : Host.Outcome State Fault Refusal :=
  finish (bufferTests m s) s
    ((s.blocks m s.inBase.toNat s.outBase.toNat (s.inLen.toNat / 8)).done s.inLen)

/-- `PC_CRYPT` (R102). -/
def execPcCrypt (s : State) : Host.Outcome State Fault Refusal := transformBuffer .enc s

/-- `PC_DECRYPT` (R104). -/
def execPcDecrypt (s : State) : Host.Outcome State Fault Refusal := transformBuffer .dec s

/-- The accumulator over `n` payload words from `base` on: the XOR of word j = `LE32(base + 4*j)`,
starting at 0 (R41, R106). -/
def State.checksum (s : State) (base n : Nat) : Word :=
  (List.range n).foldl (fun acc j => acc ^^^ s.le32 (base + 4 * j)) 0

/-- The accumulator of `PC_CHECKSUM`: over the (n - 8)/4 words before the trailer (R106). -/
def State.payloadChecksum (s : State) : Word :=
  s.checksum s.inBase.toNat ((s.inLen.toNat - 8) / 4)

/-- The tests of `PC_CHECKSUM`, in order (R106, R114). -/
def checksumTests (s : State) : List (Bool × ErrClass) :=
  [ (decide (s.inLen.toNat < 8), .length),
    (decide (s.inLen.toNat % 4 ≠ 0), .length),
    (s.outside s.inBase s.inLen.toNat, .addr) ]

/-- `PC_CHECKSUM` (R106): compare the stored word with the computed one, and overwrite it whether or not
they are equal (R107). -/
def execPcChecksum (s : State) : Host.Outcome State Fault Refusal :=
  finish (checksumTests s) s
    ((s.putLe32 s.trailer s.payloadChecksum).done
      (boolWord (s.le32 s.trailer == s.payloadChecksum)))

end Sys2Proof.Machine
end

