-- ==== Sys2Proof/Machine/Dispatch.lean ====
section
/-! DEFINITION. The meaning of every command, one arm per constructor of `Instr` (R55). -/

namespace Sys2Proof.Machine

/-- What a command does (R55): one arm per row of spec/opcode_table.json. -/
def exec (i : Instr) (s : State) : Host.Outcome State Fault Refusal :=
  match i with
  | .beInit m => Sys2Proof.Machine.execBeInit m s
  | .beBlksz => Sys2Proof.Machine.execBeBlksz s
  | .beProc m => Sys2Proof.Machine.execBeProc m s
  | .pcNew => Sys2Proof.Machine.execPcNew s
  | .pcCrypt => Sys2Proof.Machine.execPcCrypt s
  | .pcDecrypt => Sys2Proof.Machine.execPcDecrypt s
  | .pcChecksum => Sys2Proof.Machine.execPcChecksum s

end Sys2Proof.Machine
end

