-- ==== Sys2Proof/Machine/HostPort.lean ====
section
/-! DEFINITION. The host's port (R21 to R26, R32 of spec/10_state.md; R60 of spec/30_encoding.md): the
register window, the two memories, the command write and the reset input (R127 of
spec/70_reset_and_hazards.md). The host's accesses are what the CORE has in place of a program. -/

namespace Sys2Proof.Machine

/-- The offset lies in the KEYMEM part of the window, 0x40 to 0x77, which has no word access (R21,
R32). -/
def inKeymemWindow (off : Nat) : Bool := decide (0x40 ≤ off ∧ off < 0x78)

/-- The word that `RD` reads at an offset of `REG` (R21): "Offsets not listed read as 0", and `CMD`
reads as 0 (R22). -/
def State.readReg (s : State) (off : Nat) : Word :=
  match off with
  | 0x04 => s.status
  | 0x08 => s.result
  | 0x0C => s.keylen.setWidth 32
  | 0x10 => s.inBase
  | 0x14 => s.inLen
  | 0x18 => s.inOff
  | 0x1C => s.outBase
  | 0x20 => s.outLen
  | 0x24 => s.outOff
  | _ => 0

/-- What `WR` does at an offset other than `CMD`'s (R21): `STATUS`, `RESULT` and the offsets not listed
ignore it, `KEYLEN` keeps bits 5:0 (R24), an operand register keeps the word (R26). -/
def State.writeReg (s : State) (off : Nat) (v : Word) : State :=
  match off with
  | 0x0C => { s with keylen := v.setWidth 6 }
  | 0x10 => { s with inBase := v }
  | 0x14 => { s with inLen := v }
  | 0x18 => { s with inOff := v }
  | 0x1C => { s with outBase := v }
  | 0x20 => { s with outLen := v }
  | 0x24 => { s with outOff := v }
  | _ => s

/-- What a host read returned, for the host to see. -/
def State.reply (s : State) (r : Reply) : State := { s with replies := s.replies ++ [r] }

/-- A write of a word to `REG.CMD` (R22, R54): it starts the command the word encodes, and a word that
encodes none ends with `raise E_BADCMD`. -/
def issue (w : Word) (s : State) : Host.Outcome State Fault Refusal :=
  match decode w with
  | .ok i => exec i s
  | .error _ => .next (s.raise .badCmd)

/-- The reset input (R127): every piece of state takes its value of R34. The machine keeps its
`MEM_BYTES`, and the host its accesses to come and what it has read; a new epoch begins, because R128
promises nothing of what the memories hold. -/
def State.applyReset (s : State) : State :=
  { State.reset with
    memBytes := s.memBytes
    epoch := s.epoch + 1
    pending := s.pending
    replies := s.replies }

/-- One access of the host (R60), each of them one step (R50, R133). -/
def access (a : Access) (s : State) : Host.Outcome State Fault Refusal :=
  match a with
  | .wr off v =>
    if off = 0 then issue v s
    else if inKeymemWindow off then .refused (.wordAccessToKeymem off)
    else .next (s.writeReg off v)
  | .rd off =>
    if inKeymemWindow off then .refused (.wordAccessToKeymem off)
    else .next (s.reply (.word (s.readReg off)))
  | .wrk i b => if i < 56 then .next (s.storeKeymem i b) else .next s
  | .rdk i => .next (s.reply (.byte (if i < 56 then s.keymemByte i else 0)))
  | .wrm a b => if a < s.memBytes then .next (s.storeDmem a b) else .fault (.dmemAddress a)
  | .rdm a =>
    if a < s.memBytes then .next (s.reply (.byte (s.dmemByte a))) else .fault (.dmemAddress a)
  | .reset => .next s.applyReset

/-- The state with these accesses still to come. -/
def State.withPending (s : State) (l : List Access) : State := { s with pending := l }

/-- Take the host's next access and carry it out; with none to come the CORE waits (R127: "the CORE
waits for the first `REG.CMD` write"). -/
def takeAccess (s : State) : Host.Outcome State Fault Refusal :=
  match s.pending with
  | [] => .next s
  | a :: rest => access a (s.withPending rest)

/-- The state whose next access is a write of `w` to `REG.CMD`, before those already to come. -/
def State.placeCommand (s : State) (w : Word) : State :=
  s.withPending (.wr 0 w :: s.pending)

end Sys2Proof.Machine
end

