-- ==== Sys2Proof/Machine/Step.lean ====
section
/-! DEFINITION. One step of the machine: the host's next access, carried out whole (R133 of
spec/70_reset_and_hazards.md). -/

namespace Sys2Proof.Machine

/-- One step (R133, R140): the next access of the host's sequence. -/
def step (s : State) : Host.Outcome State Fault Refusal := takeAccess s

/-- `s` with the command whose word is `w` (as spec/opcode_table.json numbers its bits, those above
`nbits` being 0) as the host's next access, so that the next step runs it. The CORE fetches no
instruction: a command is a write to `REG.CMD` (R17, R52). Log entry 1. -/
def State.withFetchWord (s : State) (nbits w : Nat) : State :=
  s.placeCommand (BitVec.ofNat 32 (w % 2 ^ nbits))

end Sys2Proof.Machine
end

