-- ==== Sys2Proof/Safety.lean ====
section
/-! DEFINITION. What counts as a safe run, in the terms that claims use: the invariant of the state, the
parts of the state that a command leaves alone (R57 of spec/30_encoding.md), the bytes of DMEM it may
touch, and the words of a CipherState in the order the key schedule writes them (R74). -/

namespace Sys2Proof.Machine

/-! ## The invariant -/

/-- The slot holds what R20 says of its `INIT`: while it is 1, the tables are those that `DERIVE` gives
for some key of 1 to 56 bytes. -/
def Engine.Derived (e : Engine) : Prop :=
  e.init = true → ∃ key : Key, key.bytes.length ≤ 56 ∧ e.tables = derive key

/-- What holds at reset and after every step: both memories in canonical form and inside their spaces
(R24, R27), `MEM_BYTES` in its bounds (R11), an `ERR` code that R112 lists, and initialised slots that
hold derived tables (R20). -/
structure State.Inv (s : State) : Prop where
  keymem_wf : s.keymem.wf = true
  keymem_below : s.keymem.below 56 = true
  dmem_wf : s.dmem.wf = true
  dmem_below : s.dmem.below s.memBytes = true
  memBytes_least : 16 ≤ s.memBytes
  memBytes_most : s.memBytes ≤ 2 ^ 32
  err_listed : s.err.toNat ≤ 9
  eng0_derived : s.eng0.Derived
  eng1_derived : s.eng1.Derived

/-- "A proof about a host program should take "`STATUS.ERR` = 0 after every command" as the meaning of
"no failure"" (R117). -/
def State.NoFailure (s : State) : Prop := s.err = 0

/-! ## What a command leaves alone -/

/-- The other of the two modes, and so the index of the other slot. -/
def otherMode : Mode → Mode
  | .enc => .dec
  | .dec => .enc

/-- The offset is one that R21's table does not list as a register: a `WR` there is ignored and an `RD`
there reads 0. -/
def unlistedOffset (off : Nat) : Prop :=
  off ≠ 0x00 ∧ off ≠ 0x04 ∧ off ≠ 0x08 ∧ off ≠ 0x0C ∧ off ≠ 0x10 ∧ off ≠ 0x14 ∧ off ≠ 0x18 ∧
  off ≠ 0x1C ∧ off ≠ 0x20 ∧ off ≠ 0x24 ∧ ¬ (0x40 ≤ off ∧ off < 0x78)

/-- Everything that no command writes is the same in `t` as in `s`: `KEYLEN`, the operand registers,
`KEYMEM` (R24, R26), and the model's own fields. -/
structure SameHostSide (s t : State) : Prop where
  keylen : t.keylen = s.keylen
  inBase : t.inBase = s.inBase
  inLen : t.inLen = s.inLen
  inOff : t.inOff = s.inOff
  outBase : t.outBase = s.outBase
  outLen : t.outLen = s.outLen
  outOff : t.outOff = s.outOff
  keymem : t.keymem = s.keymem
  memBytes : t.memBytes = s.memBytes
  epoch : t.epoch = s.epoch
  pending : t.pending = s.pending
  replies : t.replies = s.replies

/-- The address lies in the `n` bytes from `a` on. -/
def inRange (a n x : Nat) : Prop := a ≤ x ∧ x < a + n

/-- The bytes of DMEM that a command may read (R57, column "reads memory"). -/
def readsDmem (i : Instr) (s : State) (x : Nat) : Prop :=
  match i with
  | .beProc _ => inRange s.procIn 8 x
  | .pcCrypt => inRange s.inBase.toNat s.inLen.toNat x
  | .pcDecrypt => inRange s.inBase.toNat s.inLen.toNat x
  | .pcChecksum => inRange s.inBase.toNat (s.inLen.toNat - 4) x
  | .beInit _ => False
  | .beBlksz => False
  | .pcNew => False

/-- The bytes of DMEM that a command may write (R57, column "writes memory"). -/
def writesDmem (i : Instr) (s : State) (x : Nat) : Prop :=
  match i with
  | .beProc _ => inRange s.procOut 8 x
  | .pcCrypt => inRange s.outBase.toNat s.inLen.toNat x
  | .pcDecrypt => inRange s.outBase.toNat s.inLen.toNat x
  | .pcChecksum => inRange s.trailer 4 x
  | .beInit _ => False
  | .beBlksz => False
  | .pcNew => False

/-- The command derives into the slot (R57, column "writes state"). -/
def derivesInto (i : Instr) (e : Mode) : Prop :=
  match i with
  | .beInit m => m = e
  | .pcNew => True
  | .beBlksz => False
  | .beProc _ => False
  | .pcCrypt => False
  | .pcDecrypt => False
  | .pcChecksum => False

/-- The codes a command can end with (R112, column "raised by", and 0 for success). -/
def endCodes : Instr → List (BitVec 4)
  | .beInit _ => [0, 4, 5, 6]
  | .beBlksz => [0]
  | .beProc _ => [0, 1, 3, 7, 8]
  | .pcNew => [0, 4, 5, 6]
  | .pcCrypt => [0, 1, 2, 7, 8]
  | .pcDecrypt => [0, 1, 2, 7, 8]
  | .pcChecksum => [0, 2, 7]

/-- The code a command ends with, as R114's lists order the causes of R112: the first that holds, or 0.
All sums are in the natural numbers. -/
def firstCause (i : Instr) (s : State) : BitVec 4 :=
  match i with
  | .beInit m =>
    if (s.eng m).init then 6 else if s.keylen.toNat = 0 then 4
    else if 57 ≤ s.keylen.toNat then 5 else 0
  | .beBlksz => 0
  | .beProc m =>
    if (s.eng m).init = false then 1
    else if s.inLen.toNat < s.inOff.toNat + 8 then 3
    else if s.outLen.toNat < s.outOff.toNat + 8 then 3
    else if s.memBytes < s.inBase.toNat + s.inLen.toNat then 7
    else if s.memBytes < s.outBase.toNat + s.outLen.toNat then 7
    else if s.procIn ≠ s.procOut ∧ s.procIn < s.procOut + 8 ∧ s.procOut < s.procIn + 8 then 8
    else 0
  | .pcNew =>
    if s.eng0.init ∨ s.eng1.init then 6 else if s.keylen.toNat = 0 then 4
    else if 57 ≤ s.keylen.toNat then 5 else 0
  | .pcCrypt => bufferCause s.eng0
  | .pcDecrypt => bufferCause s.eng1
  | .pcChecksum =>
    if s.inLen.toNat < 8 then 2 else if s.inLen.toNat % 4 ≠ 0 then 2
    else if s.memBytes < s.inBase.toNat + s.inLen.toNat then 7 else 0
where
  /-- The list of `PC_CRYPT` and `PC_DECRYPT`, on the slot that the command uses. -/
  bufferCause (e : Engine) : BitVec 4 :=
    if s.inLen.toNat = 0 ∨ s.inLen.toNat % 8 ≠ 0 then 2
    else if e.init = false then 1
    else if s.memBytes < s.inBase.toNat + s.inLen.toNat then 7
    else if s.memBytes < s.outBase.toNat + s.inLen.toNat then 7
    else if s.inBase.toNat ≠ s.outBase.toNat ∧
      s.inBase.toNat < s.outBase.toNat + s.inLen.toNat ∧
      s.outBase.toNat < s.inBase.toNat + s.inLen.toNat then 8
    else 0

/-! ## The vocabulary of the key schedule -/

/-- `key[q mod n]` (R73). -/
def Key.cyclic (key : Key) (q : Nat) : Byte :=
  key.bytes.get ⟨q % key.bytes.length, Nat.mod_lt _ (Nat.succ_pos _)⟩

/-- Word `q` of the 1042 words of a CipherState, in the order step 3 rewrites them: `P`, then `S[0]` to
`S[3]` (R74). -/
def CipherState.wordAt (c : CipherState) (q : Nat) : Word :=
  if q < 18 then c.p.getD q 0
  else ((c.s.getD ((q - 18) / 256) (Vector.replicate 256 0))).getD ((q - 18) % 256) 0

/-- The CipherState whose first `n` words are those of `new` and the others those of `old`. -/
def CipherState.mixed (new old : CipherState) (n : Nat) : CipherState where
  p := Vector.ofFn fun i : Fin 18 => if i.val < n then new.wordAt i.val else old.wordAt i.val
  s := Vector.ofFn fun t : Fin 4 => Vector.ofFn fun j : Fin 256 =>
    let q := 18 + 256 * t.val + j.val
    if q < n then new.wordAt q else old.wordAt q

/-- The same tables with the subkey array read backwards, `P[17-i]` in place of `P[i]` (R86). -/
def CipherState.reversed (c : CipherState) : CipherState :=
  { c with p := Vector.ofFn fun i : Fin 18 => c.p.get (17 - i) }

end Sys2Proof.Machine
end

