-- ==== Sys2Proof/Certificates/Slice0/Obligations.lean ====
section
/-! DEFINITION. The statements for the provers, from the numbered rules of spec/. Each is about the
machine, over every state or operand it names; a free value or a value the model chose is in none of
them but where the docstring says so. -/

open Sys2Proof Sys2Proof.Machine

/-! ## Command words (spec/30_encoding.md) -/

/-- R54, R55: a word decodes to a command exactly when it is that command's word; so decoding what the
encoder writes gives the command back, with its mode, and no command has a second word. -/
def Obligations.WordDecodesExactlyItsCommand : Prop :=
  ∀ (w : Word) (i : Instr), decode w = .ok i ↔ w = encode i

/-- R55: `match` and `mask` are such that a word selects the row exactly when `w & mask = match`, for
each of the seven rows, and the mode is bit 4. -/
def Obligations.OpcodeMapMatchesItsMasks : Prop :=
  ∀ w : Word,
    (w &&& 0xFFFFFFEF = 0x00000001 ↔
      decode w = .ok (.beInit (if w.getLsbD 4 then .dec else .enc))) ∧
    (w &&& 0xFFFFFFFF = 0x00000002 ↔ decode w = .ok .beBlksz) ∧
    (w &&& 0xFFFFFFEF = 0x00000003 ↔
      decode w = .ok (.beProc (if w.getLsbD 4 then .dec else .enc))) ∧
    (w &&& 0xFFFFFFFF = 0x00000004 ↔ decode w = .ok .pcNew) ∧
    (w &&& 0xFFFFFFFF = 0x00000005 ↔ decode w = .ok .pcCrypt) ∧
    (w &&& 0xFFFFFFFF = 0x00000006 ↔ decode w = .ok .pcDecrypt) ∧
    (w &&& 0xFFFFFFFF = 0x00000007 ↔ decode w = .ok .pcChecksum)

/-- R55: the complete list of legal command words, nine in all, each with what it encodes. -/
def Obligations.LegalCommandWordsAreNine : Prop :=
  (∀ w : Word, (∃ i, decode w = .ok i) ↔
    w = 0x01 ∨ w = 0x11 ∨ w = 0x02 ∨ w = 0x03 ∨ w = 0x13 ∨ w = 0x04 ∨ w = 0x05 ∨ w = 0x06 ∨
    w = 0x07) ∧
  decode 0x01 = .ok (.beInit .enc) ∧ decode 0x11 = .ok (.beInit .dec) ∧
  decode 0x02 = .ok .beBlksz ∧ decode 0x03 = .ok (.beProc .enc) ∧
  decode 0x13 = .ok (.beProc .dec) ∧ decode 0x04 = .ok .pcNew ∧ decode 0x05 = .ok .pcCrypt ∧
  decode 0x06 = .ok .pcDecrypt ∧ decode 0x07 = .ok .pcChecksum

/-- R54, R56: a word is refused exactly when a bit of 31:5 is set, or `OP` is 0 or 8 to 15, or `M` = 1
with `OP` in 2, 4, 5, 6, 7; a write of such a word to `REG.CMD` ends with `E_BADCMD`, code 9, and
changes nothing but `STATUS.ERR` and `RESULT`. -/
def Obligations.ReservedWordEndsWithBadCommand : Prop :=
  (∀ w : Word, (∃ e, decode w = .error e) ↔
    w.toNat / 32 ≠ 0 ∨ w.toNat % 16 = 0 ∨ 8 ≤ w.toNat % 16 ∨
    (w.toNat / 16 % 2 = 1 ∧ w.toNat % 16 ≠ 1 ∧ w.toNat % 16 ≠ 3)) ∧
  ∀ (s : State) (w : Word) (rest : List Access) (e : DecodeError),
    s.pending = .wr 0 w :: rest → decode w = .error e →
    step s = .next { s with pending := rest, err := 9, result := 0 }

/-- R54: the decoder accepts a word exactly when its fields pass the three checks, and what it gives is a
well-formed command. -/
def Obligations.DecoderAcceptsWellFormedFields : Prop :=
  ∀ w : Word, (CommandFields.ofWord w).wellFormed = true ↔
    ∃ i, decode w = .ok i ∧ i.wellFormed = true

/-- V25: words written out from the encoding lines decode to the commands they stand for. -/
def Obligations.WordsWrittenOutDecode : Prop :=
  decode 0b00000000000000000000000000010001 = .ok (.beInit .dec) ∧
  decode 0b00000000000000000000000000000010 = .ok .beBlksz ∧
  decode 0b00000000000000000000000000000011 = .ok (.beProc .enc) ∧
  decode 0b00000000000000000000000000000100 = .ok .pcNew ∧
  decode 0b00000000000000000000000000000111 = .ok .pcChecksum ∧
  decode 0b00000000000000000000000000010010 = .error .reservedMode ∧
  decode 0b00000000000000000000000000001000 = .error .reservedOpcode ∧
  decode 0b10000000000000000000000000000010 = .error .reservedBits

/-! ## The step and the host's port (spec/10_state.md, spec/30_encoding.md) -/

/-- R22, R54: when the host's next access writes to `REG.CMD` a word that decodes to a well-formed
command, the step takes the access off and is the command's meaning there; and the word placed by
`withFetchWord` is the very next one to run. That the accesses stand in a list is the model's form (log
entry 1). -/
def Obligations.StepRunsTheDecodedCommand : Prop :=
  (∀ (s : State) (w : Word) (rest : List Access) (i : Instr),
    s.pending = .wr 0 w :: rest → decode w = .ok i → i.wellFormed = true →
    step s = exec i { s with pending := rest }) ∧
  ∀ (s : State) (i : Instr), step (s.withFetchWord 32 (encode i).toNat) = exec i s

/-- R127: with no access to come, the CORE waits, and nothing changes; that waiting is a step is the
model's choice (log entry 1). -/
def Obligations.StepWaitsForTheHost : Prop :=
  ∀ s : State, s.pending = [] → step s = .next s

/-- R24, R26: a `WR` to an operand register stores the whole word, a `WR` to `KEYLEN` stores bits 5:0,
and nothing else changes. -/
def Obligations.RegisterWritesStore : Prop :=
  ∀ (s : State) (v : Word) (rest : List Access),
    (s.pending = .wr 0x0C v :: rest →
      step s = .next { s with pending := rest, keylen := v.extractLsb' 0 6 }) ∧
    (s.pending = .wr 0x10 v :: rest → step s = .next { s with pending := rest, inBase := v }) ∧
    (s.pending = .wr 0x14 v :: rest → step s = .next { s with pending := rest, inLen := v }) ∧
    (s.pending = .wr 0x18 v :: rest → step s = .next { s with pending := rest, inOff := v }) ∧
    (s.pending = .wr 0x1C v :: rest → step s = .next { s with pending := rest, outBase := v }) ∧
    (s.pending = .wr 0x20 v :: rest → step s = .next { s with pending := rest, outLen := v }) ∧
    (s.pending = .wr 0x24 v :: rest → step s = .next { s with pending := rest, outOff := v })

/-- R21: `STATUS` and `RESULT` ignore writes, and so does every offset that the table does not list; that
these take in offsets that are no multiple of 4, and 0x78 and above, is the model's reading (log
entry 10). -/
def Obligations.OtherRegisterWritesAreIgnored : Prop :=
  ∀ (s : State) (off : Nat) (v : Word) (rest : List Access),
    s.pending = .wr off v :: rest → off = 0x04 ∨ off = 0x08 ∨ unlistedOffset off →
    step s = .next { s with pending := rest }

/-- R21 to R26: what an `RD` returns at each offset; `CMD` and every offset not listed read 0, with the
model's reading of "not listed" (log entry 10). -/
def Obligations.RegisterReadsReturn : Prop :=
  ∀ (s : State) (off : Nat) (rest : List Access),
    s.pending = .rd off :: rest → ¬ (0x40 ≤ off ∧ off < 0x78) →
    ∃ w : Word, step s = .next { s with pending := rest, replies := s.replies ++ [.word w] } ∧
      (off = 0x00 → w = 0) ∧
      (off = 0x04 → w = s.status) ∧
      (off = 0x08 → w = s.result) ∧
      (off = 0x0C → w.toNat = s.keylen.toNat) ∧
      (off = 0x10 → w = s.inBase) ∧
      (off = 0x14 → w = s.inLen) ∧
      (off = 0x18 → w = s.inOff) ∧
      (off = 0x1C → w = s.outBase) ∧
      (off = 0x20 → w = s.outLen) ∧
      (off = 0x24 → w = s.outOff) ∧
      (unlistedOffset off → w = 0)

/-- R23: the fields of `STATUS`: `ERR` in bits 3:0, `INIT0` in bit 8, `INIT1` in bit 9, and every other
bit, `BUSY` among them (a command is one step, R133 and log entry 5), reads 0. -/
def Obligations.StatusFieldsReadAsStated : Prop :=
  ∀ s : State,
    s.status.extractLsb' 0 4 = s.err ∧
    s.status.getLsbD 8 = s.eng0.init ∧
    s.status.getLsbD 9 = s.eng1.init ∧
    ∀ i, 4 ≤ i → i ≠ 8 → i ≠ 9 → s.status.getLsbD i = false

/-- R24: a byte written to `KEYMEM[i]` is there to be read, and no other byte and nothing else changes;
an index of 56 or more is an offset not listed, where the write is ignored (the model's reading of R21,
log entry 10). -/
def Obligations.KeymemWriteStoresOneByte : Prop :=
  ∀ (s : State) (i : Nat) (b : Byte) (rest : List Access), s.pending = .wrk i b :: rest →
    (i < 56 → ∃ t, step s = .next t ∧ t = { s with pending := rest, keymem := t.keymem } ∧
      t.keymemByte i = b ∧ ∀ x, x ≠ i → t.keymemByte x = s.keymemByte x) ∧
    (56 ≤ i → step s = .next { s with pending := rest })

/-- R27: a byte written to `DMEM[a]` is there to be read, and no other byte and nothing else changes; an
address at or above `MEM_BYTES` does not exist, and an access to it faults (the model's choice, log
entry 8). -/
def Obligations.DmemWriteStoresOneByte : Prop :=
  ∀ (s : State) (a : Nat) (b : Byte) (rest : List Access), s.pending = .wrm a b :: rest →
    (a < s.memBytes → ∃ t, step s = .next t ∧ t = { s with pending := rest, dmem := t.dmem } ∧
      t.dmemByte a = b ∧ ∀ x, x ≠ a → t.dmemByte x = s.dmemByte x) ∧
    (s.memBytes ≤ a → step s = .fault (.dmemAddress a))

/-- R46: no read has a side effect: it changes nothing but what the host has been told, and reading the
same place again returns the same. -/
def Obligations.ReadsHaveNoSideEffect : Prop :=
  ∀ (s t : State) (a : Access) (rest : List Access), s.pending = a :: rest →
    ((∃ off, a = .rd off) ∨ (∃ i, a = .rdk i) ∨ ∃ x, a = .rdm x) → step s = .next t →
    ∃ r : Reply, t = { s with pending := rest, replies := s.replies ++ [r] } ∧
      step { t with pending := a :: rest } =
        .next { s with pending := rest, replies := s.replies ++ [r, r] }

/-- R24, R27: a read of `KEYMEM[i]` and of `DMEM[a]` returns the byte that is there. -/
def Obligations.MemoryReadsReturnTheByte : Prop :=
  ∀ (s : State) (n : Nat) (rest : List Access),
    (s.pending = .rdk n :: rest → n < 56 →
      step s = .next { s with pending := rest,
                              replies := s.replies ++ [.byte (s.keymemByte n)] }) ∧
    (s.pending = .rdm n :: rest → n < s.memBytes →
      step s = .next { s with pending := rest,
                              replies := s.replies ++ [.byte (s.dmemByte n)] })

/-- R32: KEYMEM has byte access only, so a word access inside its window has no effect the spec gives;
the model refuses it by name (its choice, log entry 9). -/
def Obligations.WordAccessToKeymemIsRefused : Prop :=
  ∀ (s : State) (off : Nat) (v : Word) (rest : List Access), 0x40 ≤ off → off < 0x78 →
    (s.pending = .wr off v :: rest → step s = .refused (.wordAccessToKeymem off)) ∧
    (s.pending = .rd off :: rest → step s = .refused (.wordAccessToKeymem off))

/-- R127: reset gives every piece of state its value of R34, whatever the state was; the machine keeps
its size, and the host its accesses to come and what it has read (the model's own fields, log entries 1,
2 and 6). -/
def Obligations.ResetGivesTheResetValues : Prop :=
  ∀ (s : State) (rest : List Access), s.pending = .reset :: rest →
    ∃ t, step s = .next t ∧ t.eng0.init = false ∧ t.eng1.init = false ∧ t.status = 0 ∧
      t.err = 0 ∧ t.result = 0 ∧ t.keylen = 0 ∧ t.inBase = 0 ∧ t.inLen = 0 ∧ t.inOff = 0 ∧
      t.outBase = 0 ∧ t.outLen = 0 ∧ t.outOff = 0 ∧
      t.memBytes = s.memBytes ∧ t.pending = rest ∧ t.replies = s.replies

/-- R34: the values that the spec gives for reset. -/
def Obligations.ResetValuesAsListed : Prop :=
  State.reset.eng0.init = false ∧ State.reset.eng1.init = false ∧ State.reset.err = 0 ∧
  State.reset.status = 0 ∧ State.reset.result = 0 ∧ State.reset.keylen = 0 ∧
  State.reset.inBase = 0 ∧ State.reset.inLen = 0 ∧ State.reset.inOff = 0 ∧
  State.reset.outBase = 0 ∧ State.reset.outLen = 0 ∧ State.reset.outOff = 0

/-! ## Byte order (spec/20_memory.md) -/

/-- R39, R40, R41: a word of DMEM is read and written with its least significant byte at the lowest
address, and a key word has its first byte most significant. -/
def Obligations.ByteOrdersAreFixed : Prop :=
  (∀ (s : State) (a : Nat), (s.le32 a).toNat =
    (s.dmemByte (a + 3)).toNat * 2 ^ 24 + (s.dmemByte (a + 2)).toNat * 2 ^ 16 +
      (s.dmemByte (a + 1)).toNat * 2 ^ 8 + (s.dmemByte a).toNat) ∧
  (∀ (s : State) (a : Nat) (w : Word) (x : Nat), ((s.putLe32 a w).dmemByte x).toNat =
    if a ≤ x ∧ x < a + 4 then w.toNat / 2 ^ (8 * (x - a)) % 256 else (s.dmemByte x).toNat) ∧
  ∀ b0 b1 b2 b3 : Byte, (be32 b0 b1 b2 b3).toNat =
    b0.toNat * 2 ^ 24 + b1.toNat * 2 ^ 16 + b2.toNat * 2 ^ 8 + b3.toNat

/-! ## The Feistel core (spec/42_feistel_core.md) -/

/-- R80: the round function in numbers modulo 2^32: add, then XOR, then add, on the table entries picked
by the four bytes of `x`, most significant first. -/
def Obligations.RoundFunctionFormula : Prop :=
  ∀ (c : CipherState) (x : Word) (a b d e : Fin 256),
    x.toNat = a.val * 2 ^ 24 + b.val * 2 ^ 16 + d.val * 2 ^ 8 + e.val →
    (roundF c x).toNat =
      ((((((c.s.get 0).get a).toNat + ((c.s.get 1).get b).toNat) % 2 ^ 32) ^^^
        ((c.s.get 2).get d).toNat) + ((c.s.get 3).get e).toNat) % 2 ^ 32

/-- R82: `FWD` written out as its XOR steps. With h 0 = xr and h 1 = xl ^ P[0], round i (1 to 16) makes
h (i+1) = h (i-1) ^ F(h i) ^ P[i]; so the subkeys are used in the order 0 to 17, each once, each `F` on
the half that the step before has just changed, and the output is (h 16 ^ P[17], h 17). -/
def Obligations.ForwardTransformStepByStep : Prop :=
  ∀ (c : CipherState) (xl : Word) (h : Nat → Word), h 1 = xl ^^^ c.p.get 0 →
    (∀ n, n < 16 → h (n + 2) = h n ^^^ roundF c (h (n + 1)) ^^^ c.p.get (Fin.ofNat 18 (n + 1))) →
    fwd c xl (h 0) = (h 16 ^^^ c.p.get 17, h 17)

/-- R84: `INV` written out in the same way, with the subkeys in the order 17 to 0: with h 0 = xr and
h 1 = xl ^ P[17], round i (1 to 16) makes h (i+1) = h (i-1) ^ F(h i) ^ P[17-i], and the output is
(h 16 ^ P[0], h 17). -/
def Obligations.InverseTransformStepByStep : Prop :=
  ∀ (c : CipherState) (xl : Word) (h : Nat → Word), h 1 = xl ^^^ c.p.get 17 →
    (∀ n, n < 16 → h (n + 2) = h n ^^^ roundF c (h (n + 1)) ^^^ c.p.get (Fin.ofNat 18 (16 - n))) →
    inv c xl (h 0) = (h 16 ^^^ c.p.get 0, h 17)

/-- R85: `INV` is the inverse of `FWD`, in both orders, for every pair of words. -/
def Obligations.InverseUndoesForward : Prop :=
  ∀ (c : CipherState) (a b : Word),
    inv c (fwd c a b).1 (fwd c a b).2 = (a, b) ∧ fwd c (inv c a b).1 (inv c a b).2 = (a, b)

/-- R86: `INV` computes what `FWD` would with the subkey array read backwards. -/
def Obligations.InverseIsForwardWithReversedSubkeys : Prop :=
  ∀ (c : CipherState) (xl xr : Word), inv c xl xr = fwd c.reversed xl xr

/-! ## The key schedule (spec/41_key_schedule.md) -/

/-- R73: step 2 in closed form: subkey i is XORed with the big-endian word of the key bytes at positions
4i to 4i+3, counted cyclically; the substitution tables are not touched. -/
def Obligations.KeyFoldingIsCyclicBigEndian : Prop :=
  ∀ (key : Key), key.folded.s = Config.sInit ∧
    ∀ i : Fin 18, key.folded.p.get i = Config.pInit.get i ^^^
      be32 (key.cyclic (4 * i.val)) (key.cyclic (4 * i.val + 1)) (key.cyclic (4 * i.val + 2))
        (key.cyclic (4 * i.val + 3))

/-- R77(a): only the 72-byte cyclic expansion of the key matters. -/
def Obligations.EqualExpansionsDeriveEqualTables : Prop :=
  ∀ (k l : Key), (∀ q, q < 72 → k.cyclic q = l.cyclic q) → derive k = derive l

/-- R74, R75: the chain of step 3. Transform m of the 521 runs over the tables as they stand then (its
first 2m words final, the others as step 2 left them), takes the pair just written before it ((0, 0)
for m = 0, so the seeds of R75), and its output is what the words 2m and 2m+1 hold in the end. -/
def Obligations.DeriveIsOneChainOfTransforms : Prop :=
  ∀ (key : Key) (m : Nat), m < 521 →
    ((derive key).wordAt (2 * m), (derive key).wordAt (2 * m + 1)) =
      fwd (CipherState.mixed (derive key) key.folded (2 * m))
        (if m = 0 then 0 else (derive key).wordAt (2 * m - 2))
        (if m = 0 then 0 else (derive key).wordAt (2 * m - 1))

/-- R69: the XOR and the sum of all words of each constant table and of all 1042 words, and the spot
values. -/
def Obligations.ConstantTablesPassTheirIntegrityChecks : Prop :=
  (Config.pInit.toList.foldl (· ^^^ ·) 0 = 0xB73AD7EA ∧
    Config.pInit.toList.foldl (· + ·) 0 = 0x8E4D14CC) ∧
  ((Config.sInit.get 0).toList.foldl (· ^^^ ·) 0 = 0x4EB4DB7F ∧
    (Config.sInit.get 0).toList.foldl (· + ·) 0 = 0x4B745115) ∧
  ((Config.sInit.get 1).toList.foldl (· ^^^ ·) 0 = 0xC727E122 ∧
    (Config.sInit.get 1).toList.foldl (· + ·) 0 = 0x72FF37B2) ∧
  ((Config.sInit.get 2).toList.foldl (· ^^^ ·) 0 = 0x462A5D01 ∧
    (Config.sInit.get 2).toList.foldl (· + ·) 0 = 0x2AC02B91) ∧
  ((Config.sInit.get 3).toList.foldl (· ^^^ ·) 0 = 0x1779E2BC ∧
    (Config.sInit.get 3).toList.foldl (· + ·) 0 = 0xF43E3A88) ∧
  ((Config.pInit.toList ++ Config.sInit.toList.flatMap Vector.toList).length = 1042 ∧
    (Config.pInit.toList ++ Config.sInit.toList.flatMap Vector.toList).foldl (· ^^^ ·) 0 =
      0x6FFA520A ∧
    (Config.pInit.toList ++ Config.sInit.toList.flatMap Vector.toList).foldl (· + ·) 0 =
      0x6BBF03AC) ∧
  Config.pInit.get 0 = 0x243F6A88 ∧ Config.pInit.get 17 = 0x8979FB1B ∧
  (Config.sInit.get 0).get 0 = 0xD1310BA6 ∧ (Config.sInit.get 0).get 255 = 0x6E85076A ∧
  (Config.sInit.get 1).get 0 = 0x4B7A70E9 ∧ (Config.sInit.get 2).get 0 = 0xE93D5A68 ∧
  (Config.sInit.get 3).get 0 = 0x3A39CE37 ∧ (Config.sInit.get 3).get 255 = 0x3AC372E6

/-! ## Block Engine commands (spec/43_block_engine.md) -/

/-- R91: `BE_INIT m` and its words. The errors in their order, each changing nothing but `ERR` and
`RESULT` = 0; and on an uninitialised slot, with a key of 1 to 56 bytes, the slot's tables derived from
`KEYMEM[0..KEYLEN-1]` and its `INIT` set, with nothing else changed but `ERR` = 0 and `RESULT` = 0. -/
def Obligations.BeInitDerivesItsSlotOrRaises : Prop :=
  encode (.beInit .enc) = 0x00000001 ∧ encode (.beInit .dec) = 0x00000011 ∧
  ∀ (m : Mode) (s : State),
    ((s.eng m).init = true → exec (.beInit m) s = .next { s with err := 6, result := 0 }) ∧
    ((s.eng m).init = false → s.keylen.toNat = 0 →
      exec (.beInit m) s = .next { s with err := 4, result := 0 }) ∧
    ((s.eng m).init = false → 57 ≤ s.keylen.toNat →
      exec (.beInit m) s = .next { s with err := 5, result := 0 }) ∧
    ∀ key : Key, (s.eng m).init = false → s.keylen.toNat ≤ 56 →
      key.bytes = (List.range s.keylen.toNat).map s.keymemByte →
      ∃ t, exec (.beInit m) s = .next t ∧ t.eng m = { tables := derive key, init := true } ∧
        t.eng (otherMode m) = s.eng (otherMode m) ∧ t.err = 0 ∧ t.result = 0 ∧
        t.dmem = s.dmem ∧ SameHostSide s t

/-- R92: `BE_BLKSZ`, word 2, ends with `RESULT` = 8 in every state, initialised or not, and changes
nothing else but `ERR` = 0. -/
def Obligations.BeBlkszReturnsEight : Prop :=
  encode .beBlksz = 0x00000002 ∧ ∀ s : State, exec .beBlksz s = .next { s with err := 0, result := 8 }

/-- R93, R94, R95: `BE_PROC m` and its words. The errors in their order, each changing nothing but `ERR`
and `RESULT` = 0, with all sums in the natural numbers; and where none holds, the block at
`IN_BASE + IN_OFF` transformed by the slot's traversal into the eight bytes at `OUT_BASE + OUT_OFF`,
little-endian words both, as the input stood before any byte was written; no other byte and nothing else
changes but `ERR` = 0 and `RESULT` = 0. -/
def Obligations.BeProcTransformsOneBlockOrRaises : Prop :=
  encode (.beProc .enc) = 0x00000003 ∧ encode (.beProc .dec) = 0x00000013 ∧
  ∀ (m : Mode) (s : State),
    ((s.eng m).init = false → exec (.beProc m) s = .next { s with err := 1, result := 0 }) ∧
    ((s.eng m).init = true →
      (s.inLen.toNat < s.inOff.toNat + 8 ∨ s.outLen.toNat < s.outOff.toNat + 8 →
        exec (.beProc m) s = .next { s with err := 3, result := 0 }) ∧
      (s.inOff.toNat + 8 ≤ s.inLen.toNat → s.outOff.toNat + 8 ≤ s.outLen.toNat →
        (s.memBytes < s.inBase.toNat + s.inLen.toNat ∨
            s.memBytes < s.outBase.toNat + s.outLen.toNat →
          exec (.beProc m) s = .next { s with err := 7, result := 0 }) ∧
        (s.inBase.toNat + s.inLen.toNat ≤ s.memBytes →
          s.outBase.toNat + s.outLen.toNat ≤ s.memBytes →
          (s.procIn ≠ s.procOut → s.procIn < s.procOut + 8 → s.procOut < s.procIn + 8 →
            exec (.beProc m) s = .next { s with err := 8, result := 0 }) ∧
          (s.procIn = s.procOut ∨ s.procIn + 8 ≤ s.procOut ∨ s.procOut + 8 ≤ s.procIn →
            ∃ t, exec (.beProc m) s = .next t ∧
              t = { s with dmem := t.dmem, err := 0, result := 0 } ∧
              (t.le32 s.procOut, t.le32 (s.procOut + 4)) =
                (match m with
                  | .enc => fwd s.eng0.tables (s.le32 s.procIn) (s.le32 (s.procIn + 4))
                  | .dec => inv s.eng1.tables (s.le32 s.procIn) (s.le32 (s.procIn + 4))) ∧
              ∀ x, x < s.procOut ∨ s.procOut + 8 ≤ x → t.dmemByte x = s.dmemByte x))))

/-- R97: with equal tables in the two slots, `BE_PROC` in the other mode on the block that `BE_PROC` has
just written (its descriptor loaded as the input, any legal place as the output) gives the original
block back, in both orders of the modes. -/
def Obligations.BeProcRoundTrip : Prop :=
  ∀ (m : Mode) (s t u : State) (ob ol oo : Word), s.eng0.tables = s.eng1.tables →
    exec (.beProc m) s = .next t → t.err = 0 →
    exec (.beProc (otherMode m))
      { t with inBase := s.outBase, inLen := s.outLen, inOff := s.outOff,
               outBase := ob, outLen := ol, outOff := oo } = .next u → u.err = 0 →
    ∀ j, j < 8 → u.dmemByte (ob.toNat + oo.toNat + j) = s.dmemByte (s.procIn + j)

/-! ## Packet Cryptor commands (spec/44_packet_cryptor.md) -/

/-- R100: `PC_NEW` and its word. The errors in their order, each changing nothing but `ERR` and
`RESULT` = 0; on two uninitialised slots with a key of 1 to 56 bytes, both slots derived from
`KEYMEM[0..KEYLEN-1]`, so that they hold equal tables, with nothing else changed but `ERR` = 0 and
`RESULT` = 0; and on two uninitialised slots it ends, whatever the key, where `BE_INIT ENC` followed by
`BE_INIT DEC` ends. -/
def Obligations.PcNewDerivesBothSlotsOrRaises : Prop :=
  encode .pcNew = 0x00000004 ∧
  ∀ s : State,
    (s.eng0.init = true ∨ s.eng1.init = true →
      exec .pcNew s = .next { s with err := 6, result := 0 }) ∧
    (s.eng0.init = false → s.eng1.init = false → s.keylen.toNat = 0 →
      exec .pcNew s = .next { s with err := 4, result := 0 }) ∧
    (s.eng0.init = false → s.eng1.init = false → 57 ≤ s.keylen.toNat →
      exec .pcNew s = .next { s with err := 5, result := 0 }) ∧
    (∀ key : Key, s.eng0.init = false → s.eng1.init = false → s.keylen.toNat ≤ 56 →
      key.bytes = (List.range s.keylen.toNat).map s.keymemByte →
      exec .pcNew s = .next { s with eng0 := { tables := derive key, init := true }
                                     eng1 := { tables := derive key, init := true }
                                     err := 0
                                     result := 0 }) ∧
    ∀ t : State, s.eng0.init = false → s.eng1.init = false → exec (.beInit .enc) s = .next t →
      exec (.beInit .dec) t = exec .pcNew s

/-- R102, R103: `PC_CRYPT` and its word. The errors in their order, each changing nothing but `ERR` and
`RESULT` = 0; and where none holds, block k of the output is the forward transform of block k of the
input as it stood before the command, for every block; no byte outside the output range and nothing else
changes but `ERR` = 0 and `RESULT` = n. -/
def Obligations.PcCryptEncryptsEveryBlockOrRaises : Prop :=
  encode .pcCrypt = 0x00000005 ∧
  ∀ s : State,
    (s.inLen.toNat = 0 ∨ s.inLen.toNat % 8 ≠ 0 →
      exec .pcCrypt s = .next { s with err := 2, result := 0 }) ∧
    (s.inLen.toNat ≠ 0 → s.inLen.toNat % 8 = 0 →
      (s.eng0.init = false → exec .pcCrypt s = .next { s with err := 1, result := 0 }) ∧
      (s.eng0.init = true →
        (s.memBytes < s.inBase.toNat + s.inLen.toNat ∨
            s.memBytes < s.outBase.toNat + s.inLen.toNat →
          exec .pcCrypt s = .next { s with err := 7, result := 0 }) ∧
        (s.inBase.toNat + s.inLen.toNat ≤ s.memBytes →
          s.outBase.toNat + s.inLen.toNat ≤ s.memBytes →
          (s.inBase ≠ s.outBase → s.inBase.toNat < s.outBase.toNat + s.inLen.toNat →
            s.outBase.toNat < s.inBase.toNat + s.inLen.toNat →
            exec .pcCrypt s = .next { s with err := 8, result := 0 }) ∧
          (s.inBase = s.outBase ∨ s.inBase.toNat + s.inLen.toNat ≤ s.outBase.toNat ∨
              s.outBase.toNat + s.inLen.toNat ≤ s.inBase.toNat →
            ∃ t, exec .pcCrypt s = .next t ∧
              t = { s with dmem := t.dmem, err := 0, result := s.inLen } ∧
              (∀ k, k < s.inLen.toNat / 8 →
                (t.le32 (s.outBase.toNat + 8 * k), t.le32 (s.outBase.toNat + 8 * k + 4)) =
                  fwd s.eng0.tables (s.le32 (s.inBase.toNat + 8 * k))
                    (s.le32 (s.inBase.toNat + 8 * k + 4))) ∧
              ∀ x, x < s.outBase.toNat ∨ s.outBase.toNat + s.inLen.toNat ≤ x →
                t.dmemByte x = s.dmemByte x))))

/-- R104: `PC_DECRYPT` and its word, as `PC_CRYPT` with slot 1 and the inverse transform. -/
def Obligations.PcDecryptDecryptsEveryBlockOrRaises : Prop :=
  encode .pcDecrypt = 0x00000006 ∧
  ∀ s : State,
    (s.inLen.toNat = 0 ∨ s.inLen.toNat % 8 ≠ 0 →
      exec .pcDecrypt s = .next { s with err := 2, result := 0 }) ∧
    (s.inLen.toNat ≠ 0 → s.inLen.toNat % 8 = 0 →
      (s.eng1.init = false → exec .pcDecrypt s = .next { s with err := 1, result := 0 }) ∧
      (s.eng1.init = true →
        (s.memBytes < s.inBase.toNat + s.inLen.toNat ∨
            s.memBytes < s.outBase.toNat + s.inLen.toNat →
          exec .pcDecrypt s = .next { s with err := 7, result := 0 }) ∧
        (s.inBase.toNat + s.inLen.toNat ≤ s.memBytes →
          s.outBase.toNat + s.inLen.toNat ≤ s.memBytes →
          (s.inBase ≠ s.outBase → s.inBase.toNat < s.outBase.toNat + s.inLen.toNat →
            s.outBase.toNat < s.inBase.toNat + s.inLen.toNat →
            exec .pcDecrypt s = .next { s with err := 8, result := 0 }) ∧
          (s.inBase = s.outBase ∨ s.inBase.toNat + s.inLen.toNat ≤ s.outBase.toNat ∨
              s.outBase.toNat + s.inLen.toNat ≤ s.inBase.toNat →
            ∃ t, exec .pcDecrypt s = .next t ∧
              t = { s with dmem := t.dmem, err := 0, result := s.inLen } ∧
              (∀ k, k < s.inLen.toNat / 8 →
                (t.le32 (s.outBase.toNat + 8 * k), t.le32 (s.outBase.toNat + 8 * k + 4)) =
                  inv s.eng1.tables (s.le32 (s.inBase.toNat + 8 * k))
                    (s.le32 (s.inBase.toNat + 8 * k + 4))) ∧
              ∀ x, x < s.outBase.toNat ∨ s.outBase.toNat + s.inLen.toNat ≤ x →
                t.dmemByte x = s.dmemByte x))))

/-- R103: a block of the output depends on the same block of the input and on the key alone: equal
blocks, wherever they stand in two runs of the command over equal tables, give equal blocks. -/
def Obligations.BlocksAreIndependent : Prop :=
  ∀ (i : Instr) (m : Mode) (s s' t t' : State) (k k' : Nat),
    (i = .pcCrypt ∧ m = .enc) ∨ (i = .pcDecrypt ∧ m = .dec) →
    (s.eng m).tables = (s'.eng m).tables →
    exec i s = .next t → t.err = 0 → exec i s' = .next t' → t'.err = 0 →
    k < s.inLen.toNat / 8 → k' < s'.inLen.toNat / 8 →
    (∀ j, j < 8 → s.dmemByte (s.inBase.toNat + 8 * k + j) =
      s'.dmemByte (s'.inBase.toNat + 8 * k' + j)) →
    ∀ j, j < 8 → t.dmemByte (s.outBase.toNat + 8 * k + j) =
      t'.dmemByte (s'.outBase.toNat + 8 * k' + j)

/-- R105: with equal tables in the two slots, `PC_DECRYPT` of what `PC_CRYPT` wrote (its output range
loaded as the input, any legal place as the output) gives back the bytes of the original buffer, and
`PC_CRYPT` of what `PC_DECRYPT` wrote does too. -/
def Obligations.BufferRoundTrip : Prop :=
  ∀ (i j : Instr) (s t u : State) (d : Word),
    (i = .pcCrypt ∧ j = .pcDecrypt) ∨ (i = .pcDecrypt ∧ j = .pcCrypt) →
    s.eng0.tables = s.eng1.tables → exec i s = .next t → t.err = 0 →
    exec j { t with inBase := s.outBase, outBase := d } = .next u → u.err = 0 →
    ∀ x, x < s.inLen.toNat → u.dmemByte (d.toNat + x) = s.dmemByte (s.inBase.toNat + x)

/-- R106, R48: `PC_CHECKSUM` and its word. The errors in their order, each changing nothing but `ERR` and
`RESULT` = 0; and where none holds, the stored word at `n - 8` compared with the XOR of the words before
it, then overwritten with that XOR whether or not they are equal; no other byte and nothing else changes,
and it needs no engine. `a` is the word-by-word accumulator, which starts at 0. -/
def Obligations.PcChecksumComparesAndOverwritesOrRaises : Prop :=
  encode .pcChecksum = 0x00000007 ∧
  ∀ s : State,
    (s.inLen.toNat < 8 ∨ s.inLen.toNat % 4 ≠ 0 →
      exec .pcChecksum s = .next { s with err := 2, result := 0 }) ∧
    (8 ≤ s.inLen.toNat → s.inLen.toNat % 4 = 0 →
      (s.memBytes < s.inBase.toNat + s.inLen.toNat →
        exec .pcChecksum s = .next { s with err := 7, result := 0 }) ∧
      ∀ a : Nat → Word, s.inBase.toNat + s.inLen.toNat ≤ s.memBytes →
        a 0 = 0 → (∀ j, a (j + 1) = a j ^^^ s.le32 (s.inBase.toNat + 4 * j)) →
        ∃ t, exec .pcChecksum s = .next t ∧
          t = { s with dmem := t.dmem, err := 0, result := t.result } ∧
          t.result = (if s.le32 (s.inBase.toNat + s.inLen.toNat - 8) = a ((s.inLen.toNat - 8) / 4)
            then 1 else 0) ∧
          t.le32 (s.inBase.toNat + s.inLen.toNat - 8) = a ((s.inLen.toNat - 8) / 4) ∧
          ∀ x, x < s.inBase.toNat + s.inLen.toNat - 8 ∨ s.inBase.toNat + s.inLen.toNat - 4 ≤ x →
            t.dmemByte x = s.dmemByte x)

/-- R107 (property 5): after a successful `PC_CHECKSUM`, a second one on the same buffer returns 1 and
leaves every byte unchanged. -/
def Obligations.SecondChecksumReturnsOne : Prop :=
  ∀ (s t : State), exec .pcChecksum s = .next t → t.err = 0 →
    ∃ u, exec .pcChecksum t = .next u ∧ u = { t with dmem := u.dmem, result := 1 } ∧
      ∀ x, u.dmemByte x = t.dmemByte x

/-- R107 (property 6): if exactly one bit of the payload is flipped after a successful `PC_CHECKSUM`, the
next one returns 0. -/
def Obligations.FlippedBitFailsTheChecksum : Prop :=
  ∀ (s t : State) (x b : Nat), exec .pcChecksum s = .next t → t.err = 0 →
    s.inBase.toNat ≤ x → x < s.inBase.toNat + s.inLen.toNat - 8 → b < 8 →
    ∃ u, exec .pcChecksum (t.storeDmem x (t.dmemByte x ^^^ (1#8 <<< b))) = .next u ∧
      u.err = 0 ∧ u.result = 0

/-! ## Whole-machine rules -/

/-- R126: every command, in every state, ends in a next state: success with code 0, or one of the codes
1 to 9. -/
def Obligations.EveryCommandEnds : Prop :=
  ∀ (i : Instr) (s : State), ∃ t, exec i s = .next t ∧ t.err.toNat ≤ 9

/-- R112: each command ends only with the codes that the table lists for it. -/
def Obligations.CommandsEndOnlyWithTheirCodes : Prop :=
  ∀ (i : Instr) (s t : State), exec i s = .next t → t.err ∈ endCodes i

/-- R114: exactly one code is reported, the first in the command's list; and a word that encodes no
command is found before anything else. -/
def Obligations.FirstCauseIsReported : Prop :=
  (∀ (i : Instr) (s : State), ∃ t, exec i s = .next t ∧ t.err = firstCause i s) ∧
  ∀ (s : State) (w : Word) (rest : List Access), s.pending = .wr 0 w :: rest →
    (∀ i, decode w ≠ .ok i) → ∃ t, step s = .next t ∧ t.err = 9

/-- R25: `RESULT` is written by every command: 8, the number of bytes produced, the boolean, or 0; and 0
after an error. The host reads it at offset 0x08 and cannot write it. -/
def Obligations.ResultHoldsTheReturnValue : Prop :=
  (∀ (s : State) (v : Word) (rest : List Access),
    (s.pending = .rd 0x08 :: rest →
      step s = .next { s with pending := rest, replies := s.replies ++ [.word s.result] }) ∧
    (s.pending = .wr 0x08 v :: rest → step s = .next { s with pending := rest })) ∧
  ∀ (i : Instr) (s t : State), exec i s = .next t →
    (t.err ≠ 0 → t.result = 0) ∧
    (t.err = 0 →
      match i with
      | .beBlksz => t.result = 8
      | .pcCrypt => t.result = s.inLen
      | .pcDecrypt => t.result = s.inLen
      | .pcChecksum =>
        t.result = (if s.le32 s.trailer = s.payloadChecksum then 1 else 0)
      | .beInit _ => t.result = 0
      | .beProc _ => t.result = 0
      | .pcNew => t.result = 0)

/-- R31, R116: no command's behaviour depends on what the last one left in `STATUS.ERR` and `RESULT`, and
neither is sticky: whatever they held, the command ends in the same state. -/
def Obligations.CommandsIgnoreTheLastOutcome : Prop :=
  ∀ (i : Instr) (s : State) (e : BitVec 4) (r : Word),
    exec i { s with err := e, result := r } = exec i s

/-- R113: a command that ends with an error changes nothing but `STATUS.ERR` and `RESULT`, and `RESULT`
becomes 0. -/
def Obligations.FailedCommandChangesOnlyStatus : Prop :=
  ∀ (i : Instr) (s t : State), exec i s = .next t → t.err ≠ 0 →
    t = { s with err := t.err, result := 0 }

/-- R57: "A register not listed for a command is ignored by it": with any other values in those
registers, the command ends the same. -/
def Obligations.UnlistedRegistersAreIgnored : Prop :=
  ∀ (s t : State) (m : Mode) (k : BitVec 6) (ib il io ob ol oo : Word),
    (exec (.beInit m) s = .next t →
      exec (.beInit m) { s with inBase := ib, inLen := il, inOff := io,
                                outBase := ob, outLen := ol, outOff := oo } =
        .next { t with inBase := ib, inLen := il, inOff := io,
                       outBase := ob, outLen := ol, outOff := oo }) ∧
    (exec .pcNew s = .next t →
      exec .pcNew { s with inBase := ib, inLen := il, inOff := io,
                           outBase := ob, outLen := ol, outOff := oo } =
        .next { t with inBase := ib, inLen := il, inOff := io,
                       outBase := ob, outLen := ol, outOff := oo }) ∧
    (exec (.beProc m) s = .next t →
      exec (.beProc m) { s with keylen := k } = .next { t with keylen := k }) ∧
    (∀ i, i = .pcCrypt ∨ i = .pcDecrypt → exec i s = .next t →
      exec i { s with keylen := k, inOff := io, outLen := ol, outOff := oo } =
        .next { t with keylen := k, inOff := io, outLen := ol, outOff := oo }) ∧
    (exec .pcChecksum s = .next t →
      exec .pcChecksum { s with keylen := k, inOff := io, outBase := ob,
                                outLen := ol, outOff := oo } =
        .next { t with keylen := k, inOff := io, outBase := ob, outLen := ol, outOff := oo })

/-- R57 (columns "writes memory" and "writes state"): no command writes anything but what the table
lists for it: the host's registers, `KEYMEM` and the other slots stay, and every byte of DMEM outside
the command's output stays. -/
def Obligations.CommandsWriteOnlyWhatTheyList : Prop :=
  ∀ (i : Instr) (s t : State), exec i s = .next t →
    SameHostSide s t ∧
    (∀ m, ¬ derivesInto i m → t.eng m = s.eng m) ∧
    (∀ x, ¬ writesDmem i s x → t.dmemByte x = s.dmemByte x)

/-- R37: a command that succeeds reads and writes only bytes of DMEM that exist. -/
def Obligations.SuccessfulCommandsStayInsideDmem : Prop :=
  ∀ (i : Instr) (s t : State), exec i s = .next t → t.err = 0 →
    ∀ x, readsDmem i s x ∨ writesDmem i s x → x < s.memBytes

/-- R57 (column "reads memory"): the bytes of DMEM that a command does not read have no influence: on
two states that agree but for them, it ends with the same code and result, the same slots, and the same
bytes in its output. -/
def Obligations.UnreadBytesHaveNoInfluence : Prop :=
  ∀ (i : Instr) (s t : State) (d : Memory),
    (∀ x, readsDmem i s x → { s with dmem := d }.dmemByte x = s.dmemByte x) →
    exec i s = .next t →
    ∃ u, exec i { s with dmem := d } = .next u ∧ u = { t with dmem := u.dmem } ∧
      (t.err = 0 → ∀ x, writesDmem i s x → u.dmemByte x = t.dmemByte x)

/-- R24: `KEYMEM` bytes at index `KEYLEN` and above are ignored by the initialising commands, and so are
all of them by the other commands: a change to them changes nothing that a command does. -/
def Obligations.KeymemBeyondKeylenIsIgnored : Prop :=
  ∀ (i : Instr) (s t : State) (k : Memory),
    (∀ x, x < s.keylen.toNat → { s with keymem := k }.keymemByte x = s.keymemByte x) →
    exec i s = .next t → exec i { s with keymem := k } = .next { t with keymem := k }

/-- R20, R128(a): while a slot's `INIT` is 0, no command reads its tables: with other tables in it, every
command ends as before, and the slot's tables are the same again once it is initialised. -/
def Obligations.UninitialisedTablesAreNeverRead : Prop :=
  ∀ (i : Instr) (m : Mode) (s t : State) (c : CipherState), (s.eng m).init = false →
    exec i s = .next t →
    ∃ u, exec i (s.setEng m { tables := c, init := false }) = .next u ∧
      u = t.setEng m (u.eng m) ∧ (u.eng m).init = (t.eng m).init ∧
      ((t.eng m).init = true → u.eng m = t.eng m)

/-- R99, R108: `PC_CRYPT` uses only `ENG[0]`, `PC_DECRYPT` only `ENG[1]`, and `PC_CHECKSUM` neither: with
any other content in the slots it does not use, each ends the same. -/
def Obligations.CryptorUsesOnlyItsSlot : Prop :=
  ∀ (s t : State) (e f : Engine),
    (exec .pcCrypt s = .next t → exec .pcCrypt { s with eng1 := f } = .next { t with eng1 := f }) ∧
    (exec .pcDecrypt s = .next t →
      exec .pcDecrypt { s with eng0 := e } = .next { t with eng0 := e }) ∧
    (exec .pcChecksum s = .next t →
      exec .pcChecksum { s with eng0 := e, eng1 := f } = .next { t with eng0 := e, eng1 := f })

/-- R30: no host access but a command and reset reads or writes the tables of a slot: with other tables
in both slots, an access that completes returns the same and leaves the slots alone. -/
def Obligations.HostCannotReachTheTables : Prop :=
  ∀ (s t : State) (a : Access) (rest : List Access) (c0 c1 : CipherState),
    s.pending = a :: rest → a ≠ .reset → (∀ w, a ≠ .wr 0 w) → step s = .next t →
    t.eng0 = s.eng0 ∧ t.eng1 = s.eng1 ∧
    step { s with eng0 := { s.eng0 with tables := c0 }, eng1 := { s.eng1 with tables := c1 } } =
      .next { t with eng0 := { s.eng0 with tables := c0 }
                     eng1 := { s.eng1 with tables := c1 } }

/-- R29(a), R129: once a slot's `INIT` is 1, no step but reset changes its `P`, `S` or `INIT`. -/
def Obligations.InitialisedSlotChangesOnlyAtReset : Prop :=
  ∀ (s t : State) (m : Mode), (s.eng m).init = true → (∀ rest, s.pending ≠ .reset :: rest) →
    step s = .next t → t.eng m = s.eng m

/-- R20: a slot's `INIT` is 1 after a step exactly when it was 1 before and the step is not reset, or the
step is a successful `BE_INIT` of the slot or `PC_NEW`. -/
def Obligations.InitIsSetByInitialisingCommandsAlone : Prop :=
  ∀ (s t : State) (m : Mode), step s = .next t →
    ((t.eng m).init = true ↔
      ((s.eng m).init = true ∧ ∀ rest, s.pending ≠ .reset :: rest) ∨
      ∃ w rest i, s.pending = .wr 0 w :: rest ∧ decode w = .ok i ∧
        (i = .beInit m ∨ i = .pcNew) ∧ t.err = 0)

/-- The invariant holds at reset: R34's values, memories in canonical form and in their spaces, and a
size within R11's bounds whatever the parameter is. -/
def Obligations.ResetMeetsTheInvariant : Prop := State.reset.Inv

/-- Every step keeps the invariant: the memories stay canonical and inside their spaces (R24, R27), the
size stays within R11's bounds, `ERR` is a code that R112 lists, and an initialised slot holds the
tables that `DERIVE` gives for some key of 1 to 56 bytes (R20). -/
def Obligations.StepKeepsTheInvariant : Prop :=
  ∀ (s t : State), s.Inv → step s = .next t → t.Inv
end

