-- ==== Sys2Proof/Laws/Decode.lean ====
section
/-! SUPPORT. The decoder and the encoder on the fields of a word: a word is its fields, and the fields
that decode to a command are that command's own (R53 to R55 of spec/30_encoding.md). -/

namespace Sys2Proof

theorem CommandFields.getLsbD_toWord (f : CommandFields) (i : Nat) :
    f.toWord.getLsbD i =
      if i < 4 then f.op.getLsbD i else if i < 5 then f.m.getLsbD (i - 4)
      else f.zero.getLsbD (i - 5) := by
  change (f.zero ++ f.m ++ f.op : BitVec (27 + 1 + 4)).getLsbD i = _
  simp only [BitVec.getLsbD_append]
  by_cases h0 : i < 4
  · simp [h0]
  · by_cases h1 : i < 5
    · simp [h0, h1, show i - 4 < 1 by omega]
    · simp [h0, h1, show ¬ i - 4 < 1 by omega, show i - 4 - 1 = i - 5 by omega]

/-- A word is the word of its fields. -/
@[simp] theorem CommandFields.toWord_ofWord (w : Word) : (CommandFields.ofWord w).toWord = w := by
  apply BitVec.eq_of_getLsbD_eq
  intro i hi
  rw [CommandFields.getLsbD_toWord]
  simp only [CommandFields.ofWord, BitVec.getLsbD_extractLsb']
  by_cases h0 : i < 4
  · simp [h0]
  · by_cases h1 : i < 5
    · simp [h0, h1, show i - 4 < 1 by omega, show 4 + (i - 4) = i by omega]
    · simp [h0, h1, show i - 5 < 27 by omega, show 5 + (i - 5) = i by omega]

/-- The fields of a word of fields are those fields. -/
@[simp] theorem CommandFields.ofWord_toWord (f : CommandFields) :
    CommandFields.ofWord f.toWord = f := by
  obtain ⟨z, m, p⟩ := f
  simp only [CommandFields.ofWord, CommandFields.mk.injEq]
  refine ⟨?_, ?_, ?_⟩
  · apply BitVec.eq_of_getLsbD_eq
    intro i hi
    rw [BitVec.getLsbD_extractLsb', CommandFields.getLsbD_toWord]
    simp only [hi, show ¬ 5 + i < 4 by omega, show ¬ 5 + i < 5 by omega, if_false, decide_true,
      Bool.true_and]
    rw [show 5 + i - 5 = i by omega]
  · apply BitVec.eq_of_getLsbD_eq
    intro i hi
    rw [BitVec.getLsbD_extractLsb', CommandFields.getLsbD_toWord]
    simp only [hi, show ¬ 4 + i < 4 by omega, show 4 + i < 5 by omega, if_true, if_false,
      decide_true, Bool.true_and]
    rw [show 4 + i - 4 = i by omega]
  · apply BitVec.eq_of_getLsbD_eq
    intro i hi
    rw [BitVec.getLsbD_extractLsb', CommandFields.getLsbD_toWord]
    simp only [hi, Nat.zero_add, if_true, decide_true, Bool.true_and]

/-- The fields decode, and if to a command then they are that command's own. -/
def CommandFields.ownFields (f : CommandFields) : Bool :=
  match f.decode with
  | .ok i => f == i.fields
  | .error _ => true

theorem CommandFields.ownFields_of_zero :
    ∀ (m : BitVec 1) (p : BitVec 4),
      CommandFields.ownFields { zero := 0, m := m, op := p } = true := by
  decide

/-- A set bit of `ZERO` is refused before anything else (R54). -/
theorem CommandFields.decode_of_zero_ne (f : CommandFields) (h : f.zero ≠ 0) :
    f.decode = .error .reservedBits := if_neg h

/-- A command's own fields decode to it (R55). -/
@[simp] theorem Instr.decode_fields (i : Instr) : i.fields.decode = .ok i := by
  cases i with
  | beInit k => cases k <;> rfl
  | beProc k => cases k <;> rfl
  | beBlksz => rfl
  | pcNew => rfl
  | pcCrypt => rfl
  | pcDecrypt => rfl
  | pcChecksum => rfl

/-- The fields that decode to a command are that command's own: no command has other fields. -/
theorem CommandFields.decode_eq_ok_iff (f : CommandFields) (i : Instr) :
    f.decode = .ok i ↔ f = i.fields := by
  constructor
  · intro h
    by_cases hz : f.zero = 0
    · have hf : f.ownFields = true := by
        obtain ⟨z, m, p⟩ := f
        cases hz
        exact CommandFields.ownFields_of_zero m p
      simpa [CommandFields.ownFields, h] using hf
    · rw [CommandFields.decode_of_zero_ne f hz] at h
      cases h
  · rintro rfl
    exact Instr.decode_fields i

/-- Every command's own fields pass R54's checks. -/
@[simp] theorem Instr.wellFormed_eq_true (i : Instr) : i.wellFormed = true := by
  cases i with
  | beInit k => cases k <;> rfl
  | beProc k => cases k <;> rfl
  | beBlksz => rfl
  | pcNew => rfl
  | pcCrypt => rfl
  | pcDecrypt => rfl
  | pcChecksum => rfl

end Sys2Proof
end

