-- ==== Sys2Proof/Laws/Feistel.lean ====
section
/-! SUPPORT. The Feistel core: one iteration of `INV` undoes one of `FWD`, and the other way round (the
step of the proof outline of R85, spec/42_feistel_core.md). -/

namespace Sys2Proof.Machine

/-- A round is its own inverse: it changes one half by a value of the other half alone (R85). -/
@[simp] theorem oneRound_oneRound (c : CipherState) (h other : Word) (i : Fin 18) :
    oneRound c (oneRound c h other i) other i = h := by
  have swap : ∀ f k : Word, h ^^^ f ^^^ k ^^^ f ^^^ k = h ^^^ (f ^^^ f) ^^^ (k ^^^ k) := by
    intro f k; ac_rfl
  simp only [oneRound, swap, BitVec.xor_self, BitVec.xor_zero]

theorem add_one_sub_one : ∀ i : Fin 18, i + 1 - 1 = i := by decide
theorem sub_one_add_one : ∀ i : Fin 18, i - 1 + 1 = i := by decide

/-- On the halves in the other order, `INV`'s iteration at i + 1 undoes `FWD`'s at i. -/
theorem invIteration_fwdIteration (c : CipherState) (h : Word × Word) (i : Fin 18) :
    invIteration c (fwdIteration c h i).swap (i + 1) = h.swap := by
  simp [invIteration, fwdIteration, Prod.swap, add_one_sub_one]

/-- On the halves in the other order, `FWD`'s iteration at i - 1 undoes `INV`'s at i. -/
theorem fwdIteration_invIteration (c : CipherState) (h : Word × Word) (i : Fin 18) :
    fwdIteration c (invIteration c h i).swap (i - 1) = h.swap := by
  simp [invIteration, fwdIteration, Prod.swap, sub_one_add_one]

/-- A whitening is its own inverse. -/
@[simp] theorem whiten_whiten (x k : Word) : x ^^^ k ^^^ k = x := by
  simp [BitVec.xor_assoc]

end Sys2Proof.Machine
end

