-- ==== Sys2Proof/Laws/State.lean ====
section
/-! SUPPORT. One lemma per field per update of the state: what each named update writes, and that it
leaves every other field alone. Tagged for `simp`, so that no proof unfolds a record update. -/

namespace Sys2Proof.Machine

/-! ## `withStatus`: the two registers every command writes -/

@[simp] theorem State.withStatus_eng0 (s : State) (e : BitVec 4) (v : Word) :
    (s.withStatus e v).eng0 = s.eng0 := rfl
@[simp] theorem State.withStatus_eng1 (s : State) (e : BitVec 4) (v : Word) :
    (s.withStatus e v).eng1 = s.eng1 := rfl
@[simp] theorem State.withStatus_err (s : State) (e : BitVec 4) (v : Word) :
    (s.withStatus e v).err = e := rfl
@[simp] theorem State.withStatus_result (s : State) (e : BitVec 4) (v : Word) :
    (s.withStatus e v).result = v := rfl
@[simp] theorem State.withStatus_keylen (s : State) (e : BitVec 4) (v : Word) :
    (s.withStatus e v).keylen = s.keylen := rfl
@[simp] theorem State.withStatus_inBase (s : State) (e : BitVec 4) (v : Word) :
    (s.withStatus e v).inBase = s.inBase := rfl
@[simp] theorem State.withStatus_inLen (s : State) (e : BitVec 4) (v : Word) :
    (s.withStatus e v).inLen = s.inLen := rfl
@[simp] theorem State.withStatus_inOff (s : State) (e : BitVec 4) (v : Word) :
    (s.withStatus e v).inOff = s.inOff := rfl
@[simp] theorem State.withStatus_outBase (s : State) (e : BitVec 4) (v : Word) :
    (s.withStatus e v).outBase = s.outBase := rfl
@[simp] theorem State.withStatus_outLen (s : State) (e : BitVec 4) (v : Word) :
    (s.withStatus e v).outLen = s.outLen := rfl
@[simp] theorem State.withStatus_outOff (s : State) (e : BitVec 4) (v : Word) :
    (s.withStatus e v).outOff = s.outOff := rfl
@[simp] theorem State.withStatus_keymem (s : State) (e : BitVec 4) (v : Word) :
    (s.withStatus e v).keymem = s.keymem := rfl
@[simp] theorem State.withStatus_dmem (s : State) (e : BitVec 4) (v : Word) :
    (s.withStatus e v).dmem = s.dmem := rfl
@[simp] theorem State.withStatus_memBytes (s : State) (e : BitVec 4) (v : Word) :
    (s.withStatus e v).memBytes = s.memBytes := rfl
@[simp] theorem State.withStatus_epoch (s : State) (e : BitVec 4) (v : Word) :
    (s.withStatus e v).epoch = s.epoch := rfl
@[simp] theorem State.withStatus_pending (s : State) (e : BitVec 4) (v : Word) :
    (s.withStatus e v).pending = s.pending := rfl
@[simp] theorem State.withStatus_replies (s : State) (e : BitVec 4) (v : Word) :
    (s.withStatus e v).replies = s.replies := rfl

/-! ## `raise`: the failing end of a command -/

@[simp] theorem State.raise_eng0 (s : State) (c : ErrClass) :
    (s.raise c).eng0 = s.eng0 := rfl
@[simp] theorem State.raise_eng1 (s : State) (c : ErrClass) :
    (s.raise c).eng1 = s.eng1 := rfl
@[simp] theorem State.raise_err (s : State) (c : ErrClass) :
    (s.raise c).err = c.code := rfl
@[simp] theorem State.raise_result (s : State) (c : ErrClass) :
    (s.raise c).result = 0 := rfl
@[simp] theorem State.raise_keylen (s : State) (c : ErrClass) :
    (s.raise c).keylen = s.keylen := rfl
@[simp] theorem State.raise_inBase (s : State) (c : ErrClass) :
    (s.raise c).inBase = s.inBase := rfl
@[simp] theorem State.raise_inLen (s : State) (c : ErrClass) :
    (s.raise c).inLen = s.inLen := rfl
@[simp] theorem State.raise_inOff (s : State) (c : ErrClass) :
    (s.raise c).inOff = s.inOff := rfl
@[simp] theorem State.raise_outBase (s : State) (c : ErrClass) :
    (s.raise c).outBase = s.outBase := rfl
@[simp] theorem State.raise_outLen (s : State) (c : ErrClass) :
    (s.raise c).outLen = s.outLen := rfl
@[simp] theorem State.raise_outOff (s : State) (c : ErrClass) :
    (s.raise c).outOff = s.outOff := rfl
@[simp] theorem State.raise_keymem (s : State) (c : ErrClass) :
    (s.raise c).keymem = s.keymem := rfl
@[simp] theorem State.raise_dmem (s : State) (c : ErrClass) :
    (s.raise c).dmem = s.dmem := rfl
@[simp] theorem State.raise_memBytes (s : State) (c : ErrClass) :
    (s.raise c).memBytes = s.memBytes := rfl
@[simp] theorem State.raise_epoch (s : State) (c : ErrClass) :
    (s.raise c).epoch = s.epoch := rfl
@[simp] theorem State.raise_pending (s : State) (c : ErrClass) :
    (s.raise c).pending = s.pending := rfl
@[simp] theorem State.raise_replies (s : State) (c : ErrClass) :
    (s.raise c).replies = s.replies := rfl

/-! ## `done`: the successful end of a command -/

@[simp] theorem State.done_eng0 (s : State) (v : Word) :
    (s.done v).eng0 = s.eng0 := rfl
@[simp] theorem State.done_eng1 (s : State) (v : Word) :
    (s.done v).eng1 = s.eng1 := rfl
@[simp] theorem State.done_err (s : State) (v : Word) :
    (s.done v).err = 0 := rfl
@[simp] theorem State.done_result (s : State) (v : Word) :
    (s.done v).result = v := rfl
@[simp] theorem State.done_keylen (s : State) (v : Word) :
    (s.done v).keylen = s.keylen := rfl
@[simp] theorem State.done_inBase (s : State) (v : Word) :
    (s.done v).inBase = s.inBase := rfl
@[simp] theorem State.done_inLen (s : State) (v : Word) :
    (s.done v).inLen = s.inLen := rfl
@[simp] theorem State.done_inOff (s : State) (v : Word) :
    (s.done v).inOff = s.inOff := rfl
@[simp] theorem State.done_outBase (s : State) (v : Word) :
    (s.done v).outBase = s.outBase := rfl
@[simp] theorem State.done_outLen (s : State) (v : Word) :
    (s.done v).outLen = s.outLen := rfl
@[simp] theorem State.done_outOff (s : State) (v : Word) :
    (s.done v).outOff = s.outOff := rfl
@[simp] theorem State.done_keymem (s : State) (v : Word) :
    (s.done v).keymem = s.keymem := rfl
@[simp] theorem State.done_dmem (s : State) (v : Word) :
    (s.done v).dmem = s.dmem := rfl
@[simp] theorem State.done_memBytes (s : State) (v : Word) :
    (s.done v).memBytes = s.memBytes := rfl
@[simp] theorem State.done_epoch (s : State) (v : Word) :
    (s.done v).epoch = s.epoch := rfl
@[simp] theorem State.done_pending (s : State) (v : Word) :
    (s.done v).pending = s.pending := rfl
@[simp] theorem State.done_replies (s : State) (v : Word) :
    (s.done v).replies = s.replies := rfl

/-! ## `storeDmem`: one byte of DMEM -/

@[simp] theorem State.storeDmem_eng0 (s : State) (a : Nat) (b : Byte) :
    (s.storeDmem a b).eng0 = s.eng0 := rfl
@[simp] theorem State.storeDmem_eng1 (s : State) (a : Nat) (b : Byte) :
    (s.storeDmem a b).eng1 = s.eng1 := rfl
@[simp] theorem State.storeDmem_err (s : State) (a : Nat) (b : Byte) :
    (s.storeDmem a b).err = s.err := rfl
@[simp] theorem State.storeDmem_result (s : State) (a : Nat) (b : Byte) :
    (s.storeDmem a b).result = s.result := rfl
@[simp] theorem State.storeDmem_keylen (s : State) (a : Nat) (b : Byte) :
    (s.storeDmem a b).keylen = s.keylen := rfl
@[simp] theorem State.storeDmem_inBase (s : State) (a : Nat) (b : Byte) :
    (s.storeDmem a b).inBase = s.inBase := rfl
@[simp] theorem State.storeDmem_inLen (s : State) (a : Nat) (b : Byte) :
    (s.storeDmem a b).inLen = s.inLen := rfl
@[simp] theorem State.storeDmem_inOff (s : State) (a : Nat) (b : Byte) :
    (s.storeDmem a b).inOff = s.inOff := rfl
@[simp] theorem State.storeDmem_outBase (s : State) (a : Nat) (b : Byte) :
    (s.storeDmem a b).outBase = s.outBase := rfl
@[simp] theorem State.storeDmem_outLen (s : State) (a : Nat) (b : Byte) :
    (s.storeDmem a b).outLen = s.outLen := rfl
@[simp] theorem State.storeDmem_outOff (s : State) (a : Nat) (b : Byte) :
    (s.storeDmem a b).outOff = s.outOff := rfl
@[simp] theorem State.storeDmem_keymem (s : State) (a : Nat) (b : Byte) :
    (s.storeDmem a b).keymem = s.keymem := rfl
@[simp] theorem State.storeDmem_dmem (s : State) (a : Nat) (b : Byte) :
    (s.storeDmem a b).dmem = s.dmem.store a b := rfl
@[simp] theorem State.storeDmem_memBytes (s : State) (a : Nat) (b : Byte) :
    (s.storeDmem a b).memBytes = s.memBytes := rfl
@[simp] theorem State.storeDmem_epoch (s : State) (a : Nat) (b : Byte) :
    (s.storeDmem a b).epoch = s.epoch := rfl
@[simp] theorem State.storeDmem_pending (s : State) (a : Nat) (b : Byte) :
    (s.storeDmem a b).pending = s.pending := rfl
@[simp] theorem State.storeDmem_replies (s : State) (a : Nat) (b : Byte) :
    (s.storeDmem a b).replies = s.replies := rfl

/-! ## `storeKeymem`: one byte of KEYMEM -/

@[simp] theorem State.storeKeymem_eng0 (s : State) (i : Nat) (b : Byte) :
    (s.storeKeymem i b).eng0 = s.eng0 := rfl
@[simp] theorem State.storeKeymem_eng1 (s : State) (i : Nat) (b : Byte) :
    (s.storeKeymem i b).eng1 = s.eng1 := rfl
@[simp] theorem State.storeKeymem_err (s : State) (i : Nat) (b : Byte) :
    (s.storeKeymem i b).err = s.err := rfl
@[simp] theorem State.storeKeymem_result (s : State) (i : Nat) (b : Byte) :
    (s.storeKeymem i b).result = s.result := rfl
@[simp] theorem State.storeKeymem_keylen (s : State) (i : Nat) (b : Byte) :
    (s.storeKeymem i b).keylen = s.keylen := rfl
@[simp] theorem State.storeKeymem_inBase (s : State) (i : Nat) (b : Byte) :
    (s.storeKeymem i b).inBase = s.inBase := rfl
@[simp] theorem State.storeKeymem_inLen (s : State) (i : Nat) (b : Byte) :
    (s.storeKeymem i b).inLen = s.inLen := rfl
@[simp] theorem State.storeKeymem_inOff (s : State) (i : Nat) (b : Byte) :
    (s.storeKeymem i b).inOff = s.inOff := rfl
@[simp] theorem State.storeKeymem_outBase (s : State) (i : Nat) (b : Byte) :
    (s.storeKeymem i b).outBase = s.outBase := rfl
@[simp] theorem State.storeKeymem_outLen (s : State) (i : Nat) (b : Byte) :
    (s.storeKeymem i b).outLen = s.outLen := rfl
@[simp] theorem State.storeKeymem_outOff (s : State) (i : Nat) (b : Byte) :
    (s.storeKeymem i b).outOff = s.outOff := rfl
@[simp] theorem State.storeKeymem_keymem (s : State) (i : Nat) (b : Byte) :
    (s.storeKeymem i b).keymem = s.keymem.store i b := rfl
@[simp] theorem State.storeKeymem_dmem (s : State) (i : Nat) (b : Byte) :
    (s.storeKeymem i b).dmem = s.dmem := rfl
@[simp] theorem State.storeKeymem_memBytes (s : State) (i : Nat) (b : Byte) :
    (s.storeKeymem i b).memBytes = s.memBytes := rfl
@[simp] theorem State.storeKeymem_epoch (s : State) (i : Nat) (b : Byte) :
    (s.storeKeymem i b).epoch = s.epoch := rfl
@[simp] theorem State.storeKeymem_pending (s : State) (i : Nat) (b : Byte) :
    (s.storeKeymem i b).pending = s.pending := rfl
@[simp] theorem State.storeKeymem_replies (s : State) (i : Nat) (b : Byte) :
    (s.storeKeymem i b).replies = s.replies := rfl

/-! ## `putLe32`: one word of DMEM -/

@[simp] theorem State.putLe32_eng0 (s : State) (a : Nat) (w : Word) :
    (s.putLe32 a w).eng0 = s.eng0 := rfl
@[simp] theorem State.putLe32_eng1 (s : State) (a : Nat) (w : Word) :
    (s.putLe32 a w).eng1 = s.eng1 := rfl
@[simp] theorem State.putLe32_err (s : State) (a : Nat) (w : Word) :
    (s.putLe32 a w).err = s.err := rfl
@[simp] theorem State.putLe32_result (s : State) (a : Nat) (w : Word) :
    (s.putLe32 a w).result = s.result := rfl
@[simp] theorem State.putLe32_keylen (s : State) (a : Nat) (w : Word) :
    (s.putLe32 a w).keylen = s.keylen := rfl
@[simp] theorem State.putLe32_inBase (s : State) (a : Nat) (w : Word) :
    (s.putLe32 a w).inBase = s.inBase := rfl
@[simp] theorem State.putLe32_inLen (s : State) (a : Nat) (w : Word) :
    (s.putLe32 a w).inLen = s.inLen := rfl
@[simp] theorem State.putLe32_inOff (s : State) (a : Nat) (w : Word) :
    (s.putLe32 a w).inOff = s.inOff := rfl
@[simp] theorem State.putLe32_outBase (s : State) (a : Nat) (w : Word) :
    (s.putLe32 a w).outBase = s.outBase := rfl
@[simp] theorem State.putLe32_outLen (s : State) (a : Nat) (w : Word) :
    (s.putLe32 a w).outLen = s.outLen := rfl
@[simp] theorem State.putLe32_outOff (s : State) (a : Nat) (w : Word) :
    (s.putLe32 a w).outOff = s.outOff := rfl
@[simp] theorem State.putLe32_keymem (s : State) (a : Nat) (w : Word) :
    (s.putLe32 a w).keymem = s.keymem := rfl
@[simp] theorem State.putLe32_dmem (s : State) (a : Nat) (w : Word) :
    (s.putLe32 a w).dmem = s.dmem.putLe32 a w := rfl
@[simp] theorem State.putLe32_memBytes (s : State) (a : Nat) (w : Word) :
    (s.putLe32 a w).memBytes = s.memBytes := rfl
@[simp] theorem State.putLe32_epoch (s : State) (a : Nat) (w : Word) :
    (s.putLe32 a w).epoch = s.epoch := rfl
@[simp] theorem State.putLe32_pending (s : State) (a : Nat) (w : Word) :
    (s.putLe32 a w).pending = s.pending := rfl
@[simp] theorem State.putLe32_replies (s : State) (a : Nat) (w : Word) :
    (s.putLe32 a w).replies = s.replies := rfl

/-! ## `reply`: what a host read returned -/

@[simp] theorem State.reply_eng0 (s : State) (r : Reply) :
    (s.reply r).eng0 = s.eng0 := rfl
@[simp] theorem State.reply_eng1 (s : State) (r : Reply) :
    (s.reply r).eng1 = s.eng1 := rfl
@[simp] theorem State.reply_err (s : State) (r : Reply) :
    (s.reply r).err = s.err := rfl
@[simp] theorem State.reply_result (s : State) (r : Reply) :
    (s.reply r).result = s.result := rfl
@[simp] theorem State.reply_keylen (s : State) (r : Reply) :
    (s.reply r).keylen = s.keylen := rfl
@[simp] theorem State.reply_inBase (s : State) (r : Reply) :
    (s.reply r).inBase = s.inBase := rfl
@[simp] theorem State.reply_inLen (s : State) (r : Reply) :
    (s.reply r).inLen = s.inLen := rfl
@[simp] theorem State.reply_inOff (s : State) (r : Reply) :
    (s.reply r).inOff = s.inOff := rfl
@[simp] theorem State.reply_outBase (s : State) (r : Reply) :
    (s.reply r).outBase = s.outBase := rfl
@[simp] theorem State.reply_outLen (s : State) (r : Reply) :
    (s.reply r).outLen = s.outLen := rfl
@[simp] theorem State.reply_outOff (s : State) (r : Reply) :
    (s.reply r).outOff = s.outOff := rfl
@[simp] theorem State.reply_keymem (s : State) (r : Reply) :
    (s.reply r).keymem = s.keymem := rfl
@[simp] theorem State.reply_dmem (s : State) (r : Reply) :
    (s.reply r).dmem = s.dmem := rfl
@[simp] theorem State.reply_memBytes (s : State) (r : Reply) :
    (s.reply r).memBytes = s.memBytes := rfl
@[simp] theorem State.reply_epoch (s : State) (r : Reply) :
    (s.reply r).epoch = s.epoch := rfl
@[simp] theorem State.reply_pending (s : State) (r : Reply) :
    (s.reply r).pending = s.pending := rfl
@[simp] theorem State.reply_replies (s : State) (r : Reply) :
    (s.reply r).replies = s.replies ++ [r] := rfl

/-! ## `withPending`: the host's accesses to come -/

@[simp] theorem State.withPending_eng0 (s : State) (l : List Access) :
    (s.withPending l).eng0 = s.eng0 := rfl
@[simp] theorem State.withPending_eng1 (s : State) (l : List Access) :
    (s.withPending l).eng1 = s.eng1 := rfl
@[simp] theorem State.withPending_err (s : State) (l : List Access) :
    (s.withPending l).err = s.err := rfl
@[simp] theorem State.withPending_result (s : State) (l : List Access) :
    (s.withPending l).result = s.result := rfl
@[simp] theorem State.withPending_keylen (s : State) (l : List Access) :
    (s.withPending l).keylen = s.keylen := rfl
@[simp] theorem State.withPending_inBase (s : State) (l : List Access) :
    (s.withPending l).inBase = s.inBase := rfl
@[simp] theorem State.withPending_inLen (s : State) (l : List Access) :
    (s.withPending l).inLen = s.inLen := rfl
@[simp] theorem State.withPending_inOff (s : State) (l : List Access) :
    (s.withPending l).inOff = s.inOff := rfl
@[simp] theorem State.withPending_outBase (s : State) (l : List Access) :
    (s.withPending l).outBase = s.outBase := rfl
@[simp] theorem State.withPending_outLen (s : State) (l : List Access) :
    (s.withPending l).outLen = s.outLen := rfl
@[simp] theorem State.withPending_outOff (s : State) (l : List Access) :
    (s.withPending l).outOff = s.outOff := rfl
@[simp] theorem State.withPending_keymem (s : State) (l : List Access) :
    (s.withPending l).keymem = s.keymem := rfl
@[simp] theorem State.withPending_dmem (s : State) (l : List Access) :
    (s.withPending l).dmem = s.dmem := rfl
@[simp] theorem State.withPending_memBytes (s : State) (l : List Access) :
    (s.withPending l).memBytes = s.memBytes := rfl
@[simp] theorem State.withPending_epoch (s : State) (l : List Access) :
    (s.withPending l).epoch = s.epoch := rfl
@[simp] theorem State.withPending_pending (s : State) (l : List Access) :
    (s.withPending l).pending = l := rfl
@[simp] theorem State.withPending_replies (s : State) (l : List Access) :
    (s.withPending l).replies = s.replies := rfl

/-! ## `setEng`: one engine slot -/

@[simp] theorem State.setEng_err (s : State) (m : Mode) (e : Engine) :
    (s.setEng m e).err = s.err := by cases m <;> rfl
@[simp] theorem State.setEng_result (s : State) (m : Mode) (e : Engine) :
    (s.setEng m e).result = s.result := by cases m <;> rfl
@[simp] theorem State.setEng_keylen (s : State) (m : Mode) (e : Engine) :
    (s.setEng m e).keylen = s.keylen := by cases m <;> rfl
@[simp] theorem State.setEng_inBase (s : State) (m : Mode) (e : Engine) :
    (s.setEng m e).inBase = s.inBase := by cases m <;> rfl
@[simp] theorem State.setEng_inLen (s : State) (m : Mode) (e : Engine) :
    (s.setEng m e).inLen = s.inLen := by cases m <;> rfl
@[simp] theorem State.setEng_inOff (s : State) (m : Mode) (e : Engine) :
    (s.setEng m e).inOff = s.inOff := by cases m <;> rfl
@[simp] theorem State.setEng_outBase (s : State) (m : Mode) (e : Engine) :
    (s.setEng m e).outBase = s.outBase := by cases m <;> rfl
@[simp] theorem State.setEng_outLen (s : State) (m : Mode) (e : Engine) :
    (s.setEng m e).outLen = s.outLen := by cases m <;> rfl
@[simp] theorem State.setEng_outOff (s : State) (m : Mode) (e : Engine) :
    (s.setEng m e).outOff = s.outOff := by cases m <;> rfl
@[simp] theorem State.setEng_keymem (s : State) (m : Mode) (e : Engine) :
    (s.setEng m e).keymem = s.keymem := by cases m <;> rfl
@[simp] theorem State.setEng_dmem (s : State) (m : Mode) (e : Engine) :
    (s.setEng m e).dmem = s.dmem := by cases m <;> rfl
@[simp] theorem State.setEng_memBytes (s : State) (m : Mode) (e : Engine) :
    (s.setEng m e).memBytes = s.memBytes := by cases m <;> rfl
@[simp] theorem State.setEng_epoch (s : State) (m : Mode) (e : Engine) :
    (s.setEng m e).epoch = s.epoch := by cases m <;> rfl
@[simp] theorem State.setEng_pending (s : State) (m : Mode) (e : Engine) :
    (s.setEng m e).pending = s.pending := by cases m <;> rfl
@[simp] theorem State.setEng_replies (s : State) (m : Mode) (e : Engine) :
    (s.setEng m e).replies = s.replies := by cases m <;> rfl
@[simp] theorem State.setEng_enc_eng0 (s : State) (e : Engine) : (s.setEng .enc e).eng0 = e := rfl
@[simp] theorem State.setEng_enc_eng1 (s : State) (e : Engine) : (s.setEng .enc e).eng1 = s.eng1 := rfl
@[simp] theorem State.setEng_dec_eng0 (s : State) (e : Engine) : (s.setEng .dec e).eng0 = s.eng0 := rfl
@[simp] theorem State.setEng_dec_eng1 (s : State) (e : Engine) : (s.setEng .dec e).eng1 = e := rfl

/-! ## The two slots by their mode -/

@[simp] theorem State.eng_enc (s : State) : s.eng .enc = s.eng0 := rfl
@[simp] theorem State.eng_dec (s : State) : s.eng .dec = s.eng1 := rfl

/-! ## `storeBlock`, `block` and `blocks`: only DMEM changes -/

@[simp] theorem State.storeBlock_eng0 (s : State) (a : Nat) (x : Word × Word) :
    (s.storeBlock a x).eng0 = s.eng0 := rfl
@[simp] theorem State.storeBlock_eng1 (s : State) (a : Nat) (x : Word × Word) :
    (s.storeBlock a x).eng1 = s.eng1 := rfl
@[simp] theorem State.storeBlock_err (s : State) (a : Nat) (x : Word × Word) :
    (s.storeBlock a x).err = s.err := rfl
@[simp] theorem State.storeBlock_result (s : State) (a : Nat) (x : Word × Word) :
    (s.storeBlock a x).result = s.result := rfl
@[simp] theorem State.storeBlock_keylen (s : State) (a : Nat) (x : Word × Word) :
    (s.storeBlock a x).keylen = s.keylen := rfl
@[simp] theorem State.storeBlock_inBase (s : State) (a : Nat) (x : Word × Word) :
    (s.storeBlock a x).inBase = s.inBase := rfl
@[simp] theorem State.storeBlock_inLen (s : State) (a : Nat) (x : Word × Word) :
    (s.storeBlock a x).inLen = s.inLen := rfl
@[simp] theorem State.storeBlock_inOff (s : State) (a : Nat) (x : Word × Word) :
    (s.storeBlock a x).inOff = s.inOff := rfl
@[simp] theorem State.storeBlock_outBase (s : State) (a : Nat) (x : Word × Word) :
    (s.storeBlock a x).outBase = s.outBase := rfl
@[simp] theorem State.storeBlock_outLen (s : State) (a : Nat) (x : Word × Word) :
    (s.storeBlock a x).outLen = s.outLen := rfl
@[simp] theorem State.storeBlock_outOff (s : State) (a : Nat) (x : Word × Word) :
    (s.storeBlock a x).outOff = s.outOff := rfl
@[simp] theorem State.storeBlock_keymem (s : State) (a : Nat) (x : Word × Word) :
    (s.storeBlock a x).keymem = s.keymem := rfl
@[simp] theorem State.storeBlock_dmem (s : State) (a : Nat) (x : Word × Word) :
    (s.storeBlock a x).dmem = (s.dmem.putLe32 a x.1).putLe32 (a + 4) x.2 := rfl
@[simp] theorem State.storeBlock_memBytes (s : State) (a : Nat) (x : Word × Word) :
    (s.storeBlock a x).memBytes = s.memBytes := rfl
@[simp] theorem State.storeBlock_epoch (s : State) (a : Nat) (x : Word × Word) :
    (s.storeBlock a x).epoch = s.epoch := rfl
@[simp] theorem State.storeBlock_pending (s : State) (a : Nat) (x : Word × Word) :
    (s.storeBlock a x).pending = s.pending := rfl
@[simp] theorem State.storeBlock_replies (s : State) (a : Nat) (x : Word × Word) :
    (s.storeBlock a x).replies = s.replies := rfl

@[simp] theorem State.block_eng0 (s : State) (m : Mode) (ai ao : Nat) :
    (s.block m ai ao).eng0 = s.eng0 := State.storeBlock_eng0 ..
@[simp] theorem State.block_eng1 (s : State) (m : Mode) (ai ao : Nat) :
    (s.block m ai ao).eng1 = s.eng1 := State.storeBlock_eng1 ..
@[simp] theorem State.block_err (s : State) (m : Mode) (ai ao : Nat) :
    (s.block m ai ao).err = s.err := State.storeBlock_err ..
@[simp] theorem State.block_result (s : State) (m : Mode) (ai ao : Nat) :
    (s.block m ai ao).result = s.result := State.storeBlock_result ..
@[simp] theorem State.block_keylen (s : State) (m : Mode) (ai ao : Nat) :
    (s.block m ai ao).keylen = s.keylen := State.storeBlock_keylen ..
@[simp] theorem State.block_inBase (s : State) (m : Mode) (ai ao : Nat) :
    (s.block m ai ao).inBase = s.inBase := State.storeBlock_inBase ..
@[simp] theorem State.block_inLen (s : State) (m : Mode) (ai ao : Nat) :
    (s.block m ai ao).inLen = s.inLen := State.storeBlock_inLen ..
@[simp] theorem State.block_inOff (s : State) (m : Mode) (ai ao : Nat) :
    (s.block m ai ao).inOff = s.inOff := State.storeBlock_inOff ..
@[simp] theorem State.block_outBase (s : State) (m : Mode) (ai ao : Nat) :
    (s.block m ai ao).outBase = s.outBase := State.storeBlock_outBase ..
@[simp] theorem State.block_outLen (s : State) (m : Mode) (ai ao : Nat) :
    (s.block m ai ao).outLen = s.outLen := State.storeBlock_outLen ..
@[simp] theorem State.block_outOff (s : State) (m : Mode) (ai ao : Nat) :
    (s.block m ai ao).outOff = s.outOff := State.storeBlock_outOff ..
@[simp] theorem State.block_keymem (s : State) (m : Mode) (ai ao : Nat) :
    (s.block m ai ao).keymem = s.keymem := State.storeBlock_keymem ..
@[simp] theorem State.block_memBytes (s : State) (m : Mode) (ai ao : Nat) :
    (s.block m ai ao).memBytes = s.memBytes := State.storeBlock_memBytes ..
@[simp] theorem State.block_epoch (s : State) (m : Mode) (ai ao : Nat) :
    (s.block m ai ao).epoch = s.epoch := State.storeBlock_epoch ..
@[simp] theorem State.block_pending (s : State) (m : Mode) (ai ao : Nat) :
    (s.block m ai ao).pending = s.pending := State.storeBlock_pending ..
@[simp] theorem State.block_replies (s : State) (m : Mode) (ai ao : Nat) :
    (s.block m ai ao).replies = s.replies := State.storeBlock_replies ..

@[simp] theorem State.blocks_eng0 (m : Mode) (n : Nat) : ∀ (s : State) (ai ao : Nat),
    (s.blocks m ai ao n).eng0 = s.eng0 := by
  induction n with
  | zero => intro s ai ao; rfl
  | succ n ih => intro s ai ao; exact (ih ..).trans (State.block_eng0 ..)
@[simp] theorem State.blocks_eng1 (m : Mode) (n : Nat) : ∀ (s : State) (ai ao : Nat),
    (s.blocks m ai ao n).eng1 = s.eng1 := by
  induction n with
  | zero => intro s ai ao; rfl
  | succ n ih => intro s ai ao; exact (ih ..).trans (State.block_eng1 ..)
@[simp] theorem State.blocks_err (m : Mode) (n : Nat) : ∀ (s : State) (ai ao : Nat),
    (s.blocks m ai ao n).err = s.err := by
  induction n with
  | zero => intro s ai ao; rfl
  | succ n ih => intro s ai ao; exact (ih ..).trans (State.block_err ..)
@[simp] theorem State.blocks_result (m : Mode) (n : Nat) : ∀ (s : State) (ai ao : Nat),
    (s.blocks m ai ao n).result = s.result := by
  induction n with
  | zero => intro s ai ao; rfl
  | succ n ih => intro s ai ao; exact (ih ..).trans (State.block_result ..)
@[simp] theorem State.blocks_keylen (m : Mode) (n : Nat) : ∀ (s : State) (ai ao : Nat),
    (s.blocks m ai ao n).keylen = s.keylen := by
  induction n with
  | zero => intro s ai ao; rfl
  | succ n ih => intro s ai ao; exact (ih ..).trans (State.block_keylen ..)
@[simp] theorem State.blocks_inBase (m : Mode) (n : Nat) : ∀ (s : State) (ai ao : Nat),
    (s.blocks m ai ao n).inBase = s.inBase := by
  induction n with
  | zero => intro s ai ao; rfl
  | succ n ih => intro s ai ao; exact (ih ..).trans (State.block_inBase ..)
@[simp] theorem State.blocks_inLen (m : Mode) (n : Nat) : ∀ (s : State) (ai ao : Nat),
    (s.blocks m ai ao n).inLen = s.inLen := by
  induction n with
  | zero => intro s ai ao; rfl
  | succ n ih => intro s ai ao; exact (ih ..).trans (State.block_inLen ..)
@[simp] theorem State.blocks_inOff (m : Mode) (n : Nat) : ∀ (s : State) (ai ao : Nat),
    (s.blocks m ai ao n).inOff = s.inOff := by
  induction n with
  | zero => intro s ai ao; rfl
  | succ n ih => intro s ai ao; exact (ih ..).trans (State.block_inOff ..)
@[simp] theorem State.blocks_outBase (m : Mode) (n : Nat) : ∀ (s : State) (ai ao : Nat),
    (s.blocks m ai ao n).outBase = s.outBase := by
  induction n with
  | zero => intro s ai ao; rfl
  | succ n ih => intro s ai ao; exact (ih ..).trans (State.block_outBase ..)
@[simp] theorem State.blocks_outLen (m : Mode) (n : Nat) : ∀ (s : State) (ai ao : Nat),
    (s.blocks m ai ao n).outLen = s.outLen := by
  induction n with
  | zero => intro s ai ao; rfl
  | succ n ih => intro s ai ao; exact (ih ..).trans (State.block_outLen ..)
@[simp] theorem State.blocks_outOff (m : Mode) (n : Nat) : ∀ (s : State) (ai ao : Nat),
    (s.blocks m ai ao n).outOff = s.outOff := by
  induction n with
  | zero => intro s ai ao; rfl
  | succ n ih => intro s ai ao; exact (ih ..).trans (State.block_outOff ..)
@[simp] theorem State.blocks_keymem (m : Mode) (n : Nat) : ∀ (s : State) (ai ao : Nat),
    (s.blocks m ai ao n).keymem = s.keymem := by
  induction n with
  | zero => intro s ai ao; rfl
  | succ n ih => intro s ai ao; exact (ih ..).trans (State.block_keymem ..)
@[simp] theorem State.blocks_memBytes (m : Mode) (n : Nat) : ∀ (s : State) (ai ao : Nat),
    (s.blocks m ai ao n).memBytes = s.memBytes := by
  induction n with
  | zero => intro s ai ao; rfl
  | succ n ih => intro s ai ao; exact (ih ..).trans (State.block_memBytes ..)
@[simp] theorem State.blocks_epoch (m : Mode) (n : Nat) : ∀ (s : State) (ai ao : Nat),
    (s.blocks m ai ao n).epoch = s.epoch := by
  induction n with
  | zero => intro s ai ao; rfl
  | succ n ih => intro s ai ao; exact (ih ..).trans (State.block_epoch ..)
@[simp] theorem State.blocks_pending (m : Mode) (n : Nat) : ∀ (s : State) (ai ao : Nat),
    (s.blocks m ai ao n).pending = s.pending := by
  induction n with
  | zero => intro s ai ao; rfl
  | succ n ih => intro s ai ao; exact (ih ..).trans (State.block_pending ..)
@[simp] theorem State.blocks_replies (m : Mode) (n : Nat) : ∀ (s : State) (ai ao : Nat),
    (s.blocks m ai ao n).replies = s.replies := by
  induction n with
  | zero => intro s ai ao; rfl
  | succ n ih => intro s ai ao; exact (ih ..).trans (State.block_replies ..)

/-! ## `initEngine`: one slot derived -/

@[simp] theorem State.initEngine_err (s : State) (m : Mode) :
    (s.initEngine m).err = s.err := State.setEng_err ..
@[simp] theorem State.initEngine_result (s : State) (m : Mode) :
    (s.initEngine m).result = s.result := State.setEng_result ..
@[simp] theorem State.initEngine_keylen (s : State) (m : Mode) :
    (s.initEngine m).keylen = s.keylen := State.setEng_keylen ..
@[simp] theorem State.initEngine_inBase (s : State) (m : Mode) :
    (s.initEngine m).inBase = s.inBase := State.setEng_inBase ..
@[simp] theorem State.initEngine_inLen (s : State) (m : Mode) :
    (s.initEngine m).inLen = s.inLen := State.setEng_inLen ..
@[simp] theorem State.initEngine_inOff (s : State) (m : Mode) :
    (s.initEngine m).inOff = s.inOff := State.setEng_inOff ..
@[simp] theorem State.initEngine_outBase (s : State) (m : Mode) :
    (s.initEngine m).outBase = s.outBase := State.setEng_outBase ..
@[simp] theorem State.initEngine_outLen (s : State) (m : Mode) :
    (s.initEngine m).outLen = s.outLen := State.setEng_outLen ..
@[simp] theorem State.initEngine_outOff (s : State) (m : Mode) :
    (s.initEngine m).outOff = s.outOff := State.setEng_outOff ..
@[simp] theorem State.initEngine_keymem (s : State) (m : Mode) :
    (s.initEngine m).keymem = s.keymem := State.setEng_keymem ..
@[simp] theorem State.initEngine_dmem (s : State) (m : Mode) :
    (s.initEngine m).dmem = s.dmem := State.setEng_dmem ..
@[simp] theorem State.initEngine_memBytes (s : State) (m : Mode) :
    (s.initEngine m).memBytes = s.memBytes := State.setEng_memBytes ..
@[simp] theorem State.initEngine_epoch (s : State) (m : Mode) :
    (s.initEngine m).epoch = s.epoch := State.setEng_epoch ..
@[simp] theorem State.initEngine_pending (s : State) (m : Mode) :
    (s.initEngine m).pending = s.pending := State.setEng_pending ..
@[simp] theorem State.initEngine_replies (s : State) (m : Mode) :
    (s.initEngine m).replies = s.replies := State.setEng_replies ..
@[simp] theorem State.initEngine_enc_eng0 (s : State) :
    (s.initEngine .enc).eng0 = { tables := derive s.key, init := true } := rfl
@[simp] theorem State.initEngine_enc_eng1 (s : State) : (s.initEngine .enc).eng1 = s.eng1 := rfl
@[simp] theorem State.initEngine_dec_eng0 (s : State) : (s.initEngine .dec).eng0 = s.eng0 := rfl
@[simp] theorem State.initEngine_dec_eng1 (s : State) :
    (s.initEngine .dec).eng1 = { tables := derive s.key, init := true } := rfl
/-- The slot just derived. -/
@[simp] theorem State.eng_initEngine (s : State) (m : Mode) :
    (s.initEngine m).eng m = { tables := derive s.key, init := true } := by cases m <;> rfl
/-- Deriving a slot does not touch the key. -/
@[simp] theorem State.initEngine_key (s : State) (m : Mode) : (s.initEngine m).key = s.key := by
  cases m <;> rfl

@[simp] theorem State.eng_done (s : State) (v : Word) (m : Mode) : (s.done v).eng m = s.eng m := by
  cases m <;> rfl
@[simp] theorem State.eng_block (s : State) (k m : Mode) (ai ao : Nat) :
    (s.block k ai ao).eng m = s.eng m := by
  cases m <;> simp

end Sys2Proof.Machine
end

