-- ==== Sys2Proof/Laws/Memory.lean ====
section
/-! SUPPORT. The laws of memory: a read after a write, the canonical form kept by every memory
operation, and the words and blocks built from bytes (R39 of spec/20_memory.md). -/

namespace Sys2Proof.Machine

/-! ## One byte -/

@[simp] theorem Memory.byteAt?_nil (x : Nat) : Memory.byteAt? [] x = none := rfl

/-- A read after a write gives the byte written there, and every other address reads as before. -/
theorem Memory.byteAt?_store (m : Memory) (a : Nat) (b : Byte) (x : Nat) :
    (m.store a b).byteAt? x = if x = a then some b else m.byteAt? x := by
  induction m with
  | nil => simp [Memory.store, Memory.byteAt?]
  | cons c rest ih =>
    obtain ⟨k, v⟩ := c
    simp only [Memory.store]
    split
    · simp [Memory.byteAt?]
    · split
      · rename_i h; subst h
        simp only [Memory.byteAt?]
        split <;> rfl
      · rename_i h
        simp only [Memory.byteAt?, ih]
        split
        · rename_i hx; subst hx; simp [Ne.symm h]
        · rfl

@[simp] theorem State.dmemByte_storeDmem (s : State) (a : Nat) (b : Byte) (x : Nat) :
    (s.storeDmem a b).dmemByte x = if x = a then b else s.dmemByte x := by
  simp only [State.dmemByte, State.storeDmem_dmem, State.storeDmem_epoch, Memory.byteAt?_store]
  split <;> rfl

@[simp] theorem State.keymemByte_storeKeymem (s : State) (i : Nat) (b : Byte) (x : Nat) :
    (s.storeKeymem i b).keymemByte x = if x = i then b else s.keymemByte x := by
  simp only [State.keymemByte, State.storeKeymem_keymem, State.storeKeymem_epoch,
    Memory.byteAt?_store]
  split <;> rfl

/-- Only the listed bytes and the epoch matter to a read of DMEM. -/
theorem State.dmemByte_congr {s t : State} (hm : t.dmem = s.dmem) (he : t.epoch = s.epoch)
    (x : Nat) : t.dmemByte x = s.dmemByte x := by
  simp [State.dmemByte, hm, he]

/-- Only the listed bytes and the epoch matter to a read of KEYMEM. -/
theorem State.keymemByte_congr {s t : State} (hm : t.keymem = s.keymem) (he : t.epoch = s.epoch)
    (x : Nat) : t.keymemByte x = s.keymemByte x := by
  simp [State.keymemByte, hm, he]

@[simp] theorem State.dmemByte_done (s : State) (v : Word) (x : Nat) :
    (s.done v).dmemByte x = s.dmemByte x := rfl

@[simp] theorem State.dmemByte_raise (s : State) (c : ErrClass) (x : Nat) :
    (s.raise c).dmemByte x = s.dmemByte x := rfl

@[simp] theorem State.le32_done (s : State) (v : Word) (a : Nat) : (s.done v).le32 a = s.le32 a :=
  rfl

@[simp] theorem State.loadBlock_done (s : State) (v : Word) (a : Nat) :
    (s.done v).loadBlock a = s.loadBlock a := rfl

/-! ## The canonical form -/

theorem Memory.risingFrom_store (m : Memory) (a : Nat) (b : Byte) :
    ∀ low, low ≤ a → m.risingFrom low = true → (m.store a b).risingFrom low = true := by
  induction m with
  | nil => intro low h _; simp [Memory.store, Memory.risingFrom, h]
  | cons c rest ih =>
    obtain ⟨k, v⟩ := c
    intro low h hm
    simp only [Memory.risingFrom, Bool.and_eq_true, decide_eq_true_eq] at hm
    obtain ⟨hk, hr⟩ := hm
    simp only [Memory.store]
    split
    · rename_i hak; simp [Memory.risingFrom, h, hr]; omega
    · split
      · rename_i hk'; subst hk'; simp [Memory.risingFrom, h, hr]
      · simp only [Memory.risingFrom, Bool.and_eq_true, decide_eq_true_eq]
        exact ⟨hk, ih (k + 1) (by omega) hr⟩

/-- A write keeps the canonical form. -/
theorem Memory.wf_store (m : Memory) (a : Nat) (b : Byte) (h : m.wf = true) :
    (m.store a b).wf = true :=
  Memory.risingFrom_store m a b 0 (Nat.zero_le a) h

/-- A write below `n` keeps every listed address below `n`. -/
theorem Memory.below_store (m : Memory) (n a : Nat) (b : Byte) (ha : a < n)
    (h : m.below n = true) : (m.store a b).below n = true := by
  induction m with
  | nil => simp [Memory.store, Memory.below, ha]
  | cons c rest ih =>
    obtain ⟨k, v⟩ := c
    simp only [Memory.below, List.all_cons, Bool.and_eq_true, decide_eq_true_eq] at h ih ⊢
    simp only [Memory.store]
    split
    · simp [List.all_cons, ha, h.1, h.2]
    · split
      · simp [List.all_cons, ha, h.2]
      · simp only [List.all_cons, Bool.and_eq_true, decide_eq_true_eq]
        exact ⟨h.1, ih h.2⟩

theorem Memory.wf_putLe32 (m : Memory) (a : Nat) (w : Word) (h : m.wf = true) :
    (m.putLe32 a w).wf = true :=
  Memory.wf_store _ _ _ (Memory.wf_store _ _ _ (Memory.wf_store _ _ _ (Memory.wf_store _ _ _ h)))

theorem Memory.below_putLe32 (m : Memory) (n a : Nat) (w : Word) (ha : a + 4 ≤ n)
    (h : m.below n = true) : (m.putLe32 a w).below n = true :=
  Memory.below_store _ _ _ _ (by omega) (Memory.below_store _ _ _ _ (by omega)
    (Memory.below_store _ _ _ _ (by omega) (Memory.below_store _ _ _ _ (by omega) h)))

/-! ## Words of bytes -/

/-- The bits of a word made of four bytes. -/
theorem getLsbD_wordOfBytes (b3 b2 b1 b0 : Byte) (i : Nat) :
    (wordOfBytes b3 b2 b1 b0).getLsbD i =
      if i < 8 then b0.getLsbD i else if i < 16 then b1.getLsbD (i - 8)
      else if i < 24 then b2.getLsbD (i - 16) else b3.getLsbD (i - 24) := by
  change (b3 ++ b2 ++ b1 ++ b0 : BitVec (8 + 8 + 8 + 8)).getLsbD i = _
  simp only [BitVec.getLsbD_append]
  by_cases h0 : i < 8
  · simp [h0]
  · by_cases h1 : i < 16
    · simp [h0, h1, show i - 8 < 8 by omega]
    · by_cases h2 : i < 24
      · simp [h0, h1, h2, show ¬ i - 8 < 8 by omega, show i - 16 < 8 by omega,
          show i - 8 - 8 = i - 16 by omega]
      · simp [h0, h1, h2, show ¬ i - 8 < 8 by omega, show ¬ i - 8 - 8 < 8 by omega,
          show i - 8 - 8 - 8 = i - 24 by omega]

/-- The bits of a byte of a word. -/
theorem getLsbD_byteOfWord (w : Word) (k i : Nat) :
    (byteOfWord w k).getLsbD i = (decide (i < 8) && w.getLsbD (8 * k + i)) := by
  simp [byteOfWord, BitVec.getLsbD_extractLsb']

/-- A word is the four bytes it was split into. -/
@[simp] theorem wordOfBytes_byteOfWord (w : Word) :
    wordOfBytes (byteOfWord w 3) (byteOfWord w 2) (byteOfWord w 1) (byteOfWord w 0) = w := by
  apply BitVec.eq_of_getLsbD_eq
  intro i hi
  simp only [getLsbD_wordOfBytes, getLsbD_byteOfWord]
  by_cases h0 : i < 8
  · simp [h0]
  · by_cases h1 : i < 16
    · simp [h0, h1, show i - 8 < 8 by omega, show 8 + (i - 8) = i by omega]
    · by_cases h2 : i < 24
      · simp [h0, h1, h2, show i - 16 < 8 by omega, show 16 + (i - 16) = i by omega]
      · simp [h0, h1, h2, show i - 24 < 8 by omega, show 24 + (i - 24) = i by omega]

theorem byteOfWord_wordOfBytes_0 (b3 b2 b1 b0 : Byte) :
    byteOfWord (wordOfBytes b3 b2 b1 b0) 0 = b0 := by
  apply BitVec.eq_of_getLsbD_eq
  intro i hi
  rw [getLsbD_byteOfWord, getLsbD_wordOfBytes, if_pos (show 8 * 0 + i < 8 by omega)]
  simp only [hi, decide_true, Bool.true_and]
  congr 1; omega

theorem byteOfWord_wordOfBytes_1 (b3 b2 b1 b0 : Byte) :
    byteOfWord (wordOfBytes b3 b2 b1 b0) 1 = b1 := by
  apply BitVec.eq_of_getLsbD_eq
  intro i hi
  rw [getLsbD_byteOfWord, getLsbD_wordOfBytes, if_neg (show ¬ 8 * 1 + i < 8 by omega), if_pos (show 8 * 1 + i < 16 by omega)]
  simp only [hi, decide_true, Bool.true_and]
  congr 1; omega

theorem byteOfWord_wordOfBytes_2 (b3 b2 b1 b0 : Byte) :
    byteOfWord (wordOfBytes b3 b2 b1 b0) 2 = b2 := by
  apply BitVec.eq_of_getLsbD_eq
  intro i hi
  rw [getLsbD_byteOfWord, getLsbD_wordOfBytes, if_neg (show ¬ 8 * 2 + i < 8 by omega), if_neg (show ¬ 8 * 2 + i < 16 by omega), if_pos (show 8 * 2 + i < 24 by omega)]
  simp only [hi, decide_true, Bool.true_and]
  congr 1; omega

theorem byteOfWord_wordOfBytes_3 (b3 b2 b1 b0 : Byte) :
    byteOfWord (wordOfBytes b3 b2 b1 b0) 3 = b3 := by
  apply BitVec.eq_of_getLsbD_eq
  intro i hi
  rw [getLsbD_byteOfWord, getLsbD_wordOfBytes, if_neg (show ¬ 8 * 3 + i < 8 by omega), if_neg (show ¬ 8 * 3 + i < 16 by omega), if_neg (show ¬ 8 * 3 + i < 24 by omega)]
  simp only [hi, decide_true, Bool.true_and]
  congr 1; omega

/-! ## Little-endian words of DMEM -/

/-- The four bytes that `PutLE32` writes, and no other byte changes (R39). -/
theorem State.dmemByte_putLe32 (s : State) (a : Nat) (w : Word) (x : Nat) :
    (s.putLe32 a w).dmemByte x =
      if a ≤ x ∧ x < a + 4 then byteOfWord w (x - a) else s.dmemByte x := by
  simp only [State.dmemByte, State.putLe32_dmem, State.putLe32_epoch, Memory.putLe32,
    Memory.byteAt?_store]
  by_cases h3 : x = a + 3
  · subst h3; simp
  · by_cases h2 : x = a + 2
    · subst h2; simp
    · by_cases h1 : x = a + 1
      · subst h1; simp
      · by_cases h0 : x = a
        · subst h0; simp
        · have : ¬ (a ≤ x ∧ x < a + 4) := by omega
          simp [h0, h1, h2, h3, this]

/-- `PutLE32` leaves the bytes outside its four alone. -/
theorem State.dmemByte_putLe32_outside (s : State) (a : Nat) (w : Word) (x : Nat)
    (h : x < a ∨ a + 4 ≤ x) : (s.putLe32 a w).dmemByte x = s.dmemByte x := by
  rw [State.dmemByte_putLe32, if_neg (by omega)]

/-- `LE32` depends on its four bytes alone. -/
theorem State.le32_congr {s t : State} {a b : Nat}
    (h : ∀ j, j < 4 → t.dmemByte (b + j) = s.dmemByte (a + j)) : t.le32 b = s.le32 a := by
  have h0 := h 0 (by omega)
  simp only [Nat.add_zero] at h0
  simp only [State.le32, h 3 (by omega), h 2 (by omega), h 1 (by omega), h0]

/-- The bytes of a little-endian word. -/
theorem State.byteOfWord_le32 (s : State) (a j : Nat) (hj : j < 4) :
    byteOfWord (s.le32 a) j = s.dmemByte (a + j) := by
  have h : j = 0 ∨ j = 1 ∨ j = 2 ∨ j = 3 := by omega
  rcases h with rfl | rfl | rfl | rfl
  · exact byteOfWord_wordOfBytes_0 ..
  · exact byteOfWord_wordOfBytes_1 ..
  · exact byteOfWord_wordOfBytes_2 ..
  · exact byteOfWord_wordOfBytes_3 ..

/-- Reading back the word just written. -/
@[simp] theorem State.le32_putLe32_same (s : State) (a : Nat) (w : Word) :
    (s.putLe32 a w).le32 a = w := by
  simp only [State.le32, State.dmemByte_putLe32]
  simp

/-- A word elsewhere reads as before. -/
theorem State.le32_putLe32_outside (s : State) (a : Nat) (w : Word) (b : Nat)
    (h : b + 4 ≤ a ∨ a + 4 ≤ b) : (s.putLe32 a w).le32 b = s.le32 b :=
  State.le32_congr fun _ _ => State.dmemByte_putLe32_outside _ _ _ _ (by omega)

/-! ## Blocks of DMEM -/

/-- `storeBlock` is two word writes, the first word in the lower four addresses. -/
theorem State.storeBlock_eq (s : State) (a : Nat) (x : Word × Word) :
    s.storeBlock a x = (s.putLe32 a x.1).putLe32 (a + 4) x.2 := rfl

/-- Reading back the block just written. -/
@[simp] theorem State.loadBlock_storeBlock_same (s : State) (a : Nat) (x : Word × Word) :
    (s.storeBlock a x).loadBlock a = x := by
  simp only [State.loadBlock, State.storeBlock_eq, State.le32_putLe32_same]
  rw [State.le32_putLe32_outside _ _ _ _ (by omega), State.le32_putLe32_same]

/-- `storeBlock` leaves the bytes outside its eight alone. -/
theorem State.dmemByte_storeBlock_outside (s : State) (a : Nat) (p : Word × Word) (x : Nat)
    (h : x < a ∨ a + 8 ≤ x) : (s.storeBlock a p).dmemByte x = s.dmemByte x := by
  rw [State.storeBlock_eq, State.dmemByte_putLe32_outside _ _ _ _ (by omega),
    State.dmemByte_putLe32_outside _ _ _ _ (by omega)]

/-- A block depends on its eight bytes alone. -/
theorem State.loadBlock_congr {s t : State} {a b : Nat}
    (h : ∀ j, j < 8 → t.dmemByte (b + j) = s.dmemByte (a + j)) : t.loadBlock b = s.loadBlock a := by
  have h1 : t.le32 b = s.le32 a := State.le32_congr fun j hj => h j (by omega)
  have h2 : t.le32 (b + 4) = s.le32 (a + 4) := State.le32_congr fun j hj => by
    have := h (4 + j) (by omega)
    rwa [← Nat.add_assoc, ← Nat.add_assoc] at this
  simp only [State.loadBlock, h1, h2]

/-- Equal blocks have equal bytes. -/
theorem State.dmemByte_of_loadBlock {s t : State} {a b : Nat} (h : t.loadBlock b = s.loadBlock a)
    (j : Nat) (hj : j < 8) : t.dmemByte (b + j) = s.dmemByte (a + j) := by
  have h1 : t.le32 b = s.le32 a := congrArg Prod.fst h
  have h2 : t.le32 (b + 4) = s.le32 (a + 4) := congrArg Prod.snd h
  by_cases hj4 : j < 4
  · rw [← State.byteOfWord_le32 t b j hj4, ← State.byteOfWord_le32 s a j hj4, h1]
  · have e1 := State.byteOfWord_le32 t (b + 4) (j - 4) (by omega)
    have e2 := State.byteOfWord_le32 s (a + 4) (j - 4) (by omega)
    rw [show b + 4 + (j - 4) = b + j by omega] at e1
    rw [show a + 4 + (j - 4) = a + j by omega] at e2
    rw [← e1, ← e2, h2]

theorem State.wf_storeBlock (s : State) (a : Nat) (x : Word × Word) (h : s.dmem.wf = true) :
    (s.storeBlock a x).dmem.wf = true :=
  Memory.wf_putLe32 _ _ _ (Memory.wf_putLe32 _ _ _ h)

theorem State.below_storeBlock (s : State) (n a : Nat) (x : Word × Word) (ha : a + 8 ≤ n)
    (h : s.dmem.below n = true) : (s.storeBlock a x).dmem.below n = true :=
  Memory.below_putLe32 _ _ _ _ (by omega) (Memory.below_putLe32 _ _ _ _ (by omega) h)

end Sys2Proof.Machine
end

