-- ==== Sys2Proof/Laws/Ops.lean ====
section
/-! SUPPORT. What each shared operation of the commands can do, said once: how a command ends (R113),
when its ordered tests all pass (R114), and what `BLOCK` and a row of blocks leave in DMEM (R94, R102). -/

namespace Sys2Proof.Machine

/-! ## How a command ends -/

@[simp] theorem firstError_nil : firstError [] = none := rfl

theorem firstError_cons (h : Bool) (c : ErrClass) (l : List (Bool × ErrClass)) :
    firstError ((h, c) :: l) = if h then some c else firstError l := rfl

/-- All tests pass exactly when the first does not hold and the others pass. -/
@[simp] theorem firstError_cons_eq_none (h : Bool) (c : ErrClass) (l : List (Bool × ErrClass)) :
    firstError ((h, c) :: l) = none ↔ h = false ∧ firstError l = none := by
  cases h <;> simp [firstError_cons]

/-- A class that is raised stands in the command's list with its test true. -/
theorem firstError_mem {l : List (Bool × ErrClass)} {c : ErrClass} (h : firstError l = some c) :
    (true, c) ∈ l := by
  induction l with
  | nil => cases h
  | cons p rest ih =>
    obtain ⟨b, d⟩ := p
    cases b with
    | true => cases h; exact List.mem_cons_self
    | false => exact List.mem_cons_of_mem _ (ih h)

/-- If no test holds, the command's effects happen. -/
theorem finish_of_none {l : List (Bool × ErrClass)} (s d : State) (h : firstError l = none) :
    finish l s d = .next d := by
  simp only [finish, h]

/-- If a test holds, the command raises the first that does. -/
theorem finish_of_some {l : List (Bool × ErrClass)} {c : ErrClass} (s d : State)
    (h : firstError l = some c) : finish l s d = .next (s.raise c) := by
  simp only [finish, h]

/-- Everything that the end of a command can be. -/
theorem finish_next {l : List (Bool × ErrClass)} {s d t : State} (h : finish l s d = .next t) :
    (∃ c, firstError l = some c ∧ t = s.raise c) ∨ (firstError l = none ∧ t = d) := by
  cases hf : firstError l with
  | some c => rw [finish_of_some s d hf] at h; cases h; exact .inl ⟨c, rfl, rfl⟩
  | none => rw [finish_of_none s d hf] at h; cases h; exact .inr ⟨rfl, rfl⟩

/-- A command always ends in a next state (R126). -/
theorem finish_ends (l : List (Bool × ErrClass)) (s d : State) : ∃ t, finish l s d = .next t := by
  cases hf : firstError l with
  | some c => exact ⟨_, finish_of_some s d hf⟩
  | none => exact ⟨_, finish_of_none s d hf⟩

/-- No class has the code of success. -/
theorem ErrClass.code_ne_zero (c : ErrClass) : c.code ≠ 0 := by cases c <;> decide

/-- The codes in use are 1 to 9 (R112). -/
theorem ErrClass.code_le (c : ErrClass) : c.code.toNat ≤ 9 := by cases c <;> decide

/-! ## When all tests of a command pass -/

theorem beInitTests_pass (m : Mode) (s : State) :
    firstError (beInitTests m s) = none ↔
      (s.eng m).init = false ∧ s.keylen.toNat ≠ 0 ∧ s.keylen.toNat ≤ 56 := by
  simp [beInitTests]

theorem pcNewTests_pass (s : State) :
    firstError (pcNewTests s) = none ↔
      s.eng0.init = false ∧ s.eng1.init = false ∧ s.keylen.toNat ≠ 0 ∧ s.keylen.toNat ≤ 56 := by
  simp [pcNewTests, and_assoc]

theorem beProcTests_pass (m : Mode) (s : State) :
    firstError (beProcTests m s) = none ↔
      (s.eng m).init = true ∧ s.inOff.toNat + 8 ≤ s.inLen.toNat ∧
      s.outOff.toNat + 8 ≤ s.outLen.toNat ∧ s.inBase.toNat + s.inLen.toNat ≤ s.memBytes ∧
      s.outBase.toNat + s.outLen.toNat ≤ s.memBytes ∧
      ¬ (s.procIn ≠ s.procOut ∧ s.procIn < s.procOut + 8 ∧ s.procOut < s.procIn + 8) := by
  simp [beProcTests, pastLength, State.outside, partialOverlap]

theorem bufferTests_pass (m : Mode) (s : State) :
    firstError (bufferTests m s) = none ↔
      s.inLen.toNat ≠ 0 ∧ s.inLen.toNat % 8 = 0 ∧ (s.eng m).init = true ∧
      s.inBase.toNat + s.inLen.toNat ≤ s.memBytes ∧
      s.outBase.toNat + s.inLen.toNat ≤ s.memBytes ∧
      ¬ (s.inBase.toNat ≠ s.outBase.toNat ∧ s.inBase.toNat < s.outBase.toNat + s.inLen.toNat ∧
        s.outBase.toNat < s.inBase.toNat + s.inLen.toNat) := by
  simp [bufferTests, State.outside, partialOverlap, and_assoc]

theorem checksumTests_pass (s : State) :
    firstError (checksumTests s) = none ↔
      8 ≤ s.inLen.toNat ∧ s.inLen.toNat % 4 = 0 ∧
      s.inBase.toNat + s.inLen.toNat ≤ s.memBytes := by
  simp [checksumTests, State.outside]

/-! ## One block -/

/-- What `BLOCK` leaves in the output window (R94). -/
@[simp] theorem State.loadBlock_block_same (s : State) (m : Mode) (ai ao : Nat) :
    (s.block m ai ao).loadBlock ao =
      transform m (s.eng m).tables (s.loadBlock ai).1 (s.loadBlock ai).2 :=
  State.loadBlock_storeBlock_same ..

/-- `BLOCK` leaves the bytes outside its output window alone (R94). -/
theorem State.dmemByte_block_outside (s : State) (m : Mode) (ai ao x : Nat)
    (h : x < ao ∨ ao + 8 ≤ x) : (s.block m ai ao).dmemByte x = s.dmemByte x :=
  State.dmemByte_storeBlock_outside _ _ _ _ h

/-- A block elsewhere reads as before. -/
theorem State.loadBlock_block_outside (s : State) (m : Mode) (ai ao b : Nat)
    (h : b + 8 ≤ ao ∨ ao + 8 ≤ b) : (s.block m ai ao).loadBlock b = s.loadBlock b :=
  State.loadBlock_congr fun _ _ => State.dmemByte_block_outside _ _ _ _ _ (by omega)

/-! ## A row of blocks -/

/-- A row of `n` blocks leaves the bytes outside its output range alone (R102). -/
theorem State.dmemByte_blocks_outside (m : Mode) (n : Nat) : ∀ (s : State) (ai ao x : Nat),
    x < ao ∨ ao + 8 * n ≤ x → (s.blocks m ai ao n).dmemByte x = s.dmemByte x := by
  induction n with
  | zero => intro s ai ao x _; rfl
  | succ n ih =>
    intro s ai ao x h
    rw [State.blocks, ih _ _ _ _ (by omega), State.dmemByte_block_outside _ _ _ _ _ (by omega)]

/-- A block outside the output range of a row reads as before. -/
theorem State.loadBlock_blocks_outside (m : Mode) (n : Nat) (s : State) (ai ao b : Nat)
    (h : b + 8 ≤ ao ∨ ao + 8 * n ≤ b) : (s.blocks m ai ao n).loadBlock b = s.loadBlock b :=
  State.loadBlock_congr fun _ _ => State.dmemByte_blocks_outside _ _ _ _ _ _ (by omega)

/-- Block `k` of the output is the transform of block `k` of the input as it stood before the row,
whether the two ranges are the same or disjoint (R102, R103). -/
theorem State.loadBlock_blocks (m : Mode) (n : Nat) : ∀ (s : State) (ai ao k : Nat),
    (ai = ao ∨ ai + 8 * n ≤ ao ∨ ao + 8 * n ≤ ai) → k < n →
    (s.blocks m ai ao n).loadBlock (ao + 8 * k) =
      transform m (s.eng m).tables (s.loadBlock (ai + 8 * k)).1 (s.loadBlock (ai + 8 * k)).2 := by
  induction n with
  | zero => intro s ai ao k _ hk; omega
  | succ n ih =>
    intro s ai ao k hd hk
    rw [State.blocks]
    cases k with
    | zero =>
      rw [State.loadBlock_blocks_outside _ _ _ _ _ _ (by omega)]
      exact State.loadBlock_block_same ..
    | succ k =>
      have := ih (s.block m ai ao) (ai + 8) (ao + 8) k (by omega) (by omega)
      rw [show ao + 8 * (k + 1) = ao + 8 + 8 * k by omega, this, State.eng_block,
        show ai + 8 * (k + 1) = ai + 8 + 8 * k by omega,
        State.loadBlock_block_outside _ _ _ _ _ (by omega)]

theorem State.wf_blocks (m : Mode) (n : Nat) : ∀ (s : State) (ai ao : Nat),
    s.dmem.wf = true → (s.blocks m ai ao n).dmem.wf = true := by
  induction n with
  | zero => intro s ai ao h; exact h
  | succ n ih => intro s ai ao h; exact ih _ _ _ (State.wf_storeBlock _ _ _ h)

theorem State.below_blocks (m : Mode) (n : Nat) (top : Nat) : ∀ (s : State) (ai ao : Nat),
    ao + 8 * n ≤ top → s.dmem.below top = true → (s.blocks m ai ao n).dmem.below top = true := by
  induction n with
  | zero => intro s ai ao _ h; exact h
  | succ n ih =>
    intro s ai ao hn h
    exact ih _ _ _ (by omega) (State.below_storeBlock _ _ _ _ (by omega) h)

/-! ## The checksum -/

/-- The checksum depends on its words alone. -/
theorem State.checksum_congr {s t : State} {a b : Nat} (n : Nat)
    (h : ∀ j, j < n → t.le32 (b + 4 * j) = s.le32 (a + 4 * j)) :
    t.checksum b n = s.checksum a n := by
  induction n with
  | zero => rfl
  | succ n ih =>
    have ih' := ih fun j hj => h j (by omega)
    simp only [State.checksum, List.range_succ, List.foldl_append, List.foldl_cons,
      List.foldl_nil] at ih' ⊢
    rw [ih', h n (by omega)]

theorem State.checksum_zero (s : State) (a : Nat) : s.checksum a 0 = 0 := rfl

theorem State.checksum_succ (s : State) (a n : Nat) :
    s.checksum a (n + 1) = s.checksum a n ^^^ s.le32 (a + 4 * n) := by
  simp only [State.checksum, List.range_succ, List.foldl_append, List.foldl_cons, List.foldl_nil]

/-! ## The key -/

/-- The key of a command is `KEYMEM[0..KEYLEN-1]` (R24), for every `KEYLEN` but 0. -/
theorem State.key_bytes (s : State) (h : s.keylen.toNat ≠ 0) :
    s.key.bytes = (List.range s.keylen.toNat).map s.keymemByte := by
  obtain ⟨n, hn⟩ := Nat.exists_eq_succ_of_ne_zero h
  simp [State.key, Key.bytes, hn, List.range_succ_eq_map, Function.comp_def]

/-- A key is its bytes. -/
theorem Key.ext_bytes {k l : Key} (h : k.bytes = l.bytes) : k = l := by
  cases k; cases l
  simpa [Key.bytes] using h

end Sys2Proof.Machine
end

