-- ==== Sys2Proof/Laws/KeySchedule.lean ====
section
/-! SUPPORT. The key schedule (spec/41_key_schedule.md): what one key word is (R73), and step 3 as one
fold of 521 transforms over the words of the tables in the order of R74. -/

namespace Sys2Proof.Machine

/-! ## Step 2: the key pointer and the key word -/

/-- The pointer moves on by one, cyclically (R73). -/
theorem Key.advance_val (key : Key) (k : Fin key.bytes.length) (q : Nat)
    (h : k.val = q % key.bytes.length) : (key.advance k).val = (q + 1) % key.bytes.length := by
  have hn : 0 < key.bytes.length := Nat.succ_pos _
  have hk := k.isLt
  rw [Nat.add_mod, ← h]
  unfold Key.advance
  split
  · rename_i hlt
    have h1 : 1 % key.bytes.length = 1 := Nat.mod_eq_of_lt (by omega)
    rw [h1, Nat.mod_eq_of_lt hlt]
  · rename_i hge
    show 0 = _
    by_cases h1 : key.bytes.length = 1
    · have e : ∀ x, x % key.bytes.length = 0 := by rw [h1]; intro x; exact Nat.mod_one x
      rw [e]
    · rw [Nat.mod_eq_of_lt (show 1 < key.bytes.length by omega),
        show k.val + 1 = key.bytes.length by omega, Nat.mod_self]

/-- The byte at the pointer is the key byte at its cyclic position (R73). -/
theorem Key.get_cyclic (key : Key) (k : Fin key.bytes.length) (q : Nat)
    (h : k.val = q % key.bytes.length) : key.bytes.get k = key.cyclic q := by
  unfold Key.cyclic
  congr 1
  exact Fin.ext h

/-- Four bytes taken in turn make their big-endian word (R40, R73). -/
theorem be32_of_shifts (b0 b1 b2 b3 : Byte) :
    ((((((0 : Word) <<< 8 ||| b0.setWidth 32) <<< 8 ||| b1.setWidth 32) <<< 8) |||
      b2.setWidth 32) <<< 8) ||| b3.setWidth 32 = be32 b0 b1 b2 b3 := by
  apply BitVec.eq_of_getLsbD_eq
  intro i hi
  simp only [be32, wordOfBytes]
  change _ = (b0 ++ b1 ++ b2 ++ b3 : BitVec (8 + 8 + 8 + 8)).getLsbD i
  simp only [BitVec.getLsbD_append, BitVec.getLsbD_or, BitVec.getLsbD_shiftLeft,
    BitVec.getLsbD_setWidth]
  by_cases h0 : i < 8
  · simp [h0, hi]
  · by_cases h1 : i < 16
    · simp [h0, hi, show i - 8 < 8 by omega, show i - 8 < 32 by omega,
        BitVec.getLsbD_of_ge b3 i (by omega)]
    · by_cases h2 : i < 24
      · simp [h0, hi, show ¬ i - 8 < 8 by omega, show i - 8 < 32 by omega,
          show i - 8 - 8 < 8 by omega, show i - 8 - 8 < 32 by omega,
          BitVec.getLsbD_of_ge b3 i (by omega), BitVec.getLsbD_of_ge b2 (i - 8) (by omega)]
      · simp [h0, hi, show ¬ i - 8 < 8 by omega, show i - 8 < 32 by omega,
          show ¬ i - 8 - 8 < 8 by omega, show i - 8 - 8 < 32 by omega,
          show i - 8 - 8 - 8 < 8 by omega, show i - 8 - 8 - 8 < 32 by omega,
          BitVec.getLsbD_of_ge b3 i (by omega), BitVec.getLsbD_of_ge b2 (i - 8) (by omega),
          BitVec.getLsbD_of_ge b1 (i - 8 - 8) (by omega)]

/-- The word taken from the pointer on, and where the pointer stands then (R73). -/
theorem Key.takeWord_eq (key : Key) (k : Fin key.bytes.length) (q : Nat)
    (h : k.val = q % key.bytes.length) :
    (key.takeWord k).1 = be32 (key.cyclic q) (key.cyclic (q + 1)) (key.cyclic (q + 2))
      (key.cyclic (q + 3)) ∧
    (key.takeWord k).2.val = (q + 4) % key.bytes.length := by
  have h1 := key.advance_val k q h
  have h2 := key.advance_val _ (q + 1) h1
  have h3 := key.advance_val _ (q + 2) h2
  refine ⟨?_, key.advance_val _ (q + 3) h3⟩
  simp only [Key.takeWord, Key.takeByte]
  rw [key.get_cyclic _ q h, key.get_cyclic _ (q + 1) h1, key.get_cyclic _ (q + 2) h2,
    key.get_cyclic _ (q + 3) h3]
  exact be32_of_shifts ..

/-! ## Step 3: one transform at a time -/

/-- Transform `m` of the 521 of step 3: the first 9 over `P`, then 128 over each table (R74). -/
def Chain.transformAt (g : Chain) (m : Nat) : Chain :=
  if m < 9 then g.overSubkeys m
  else g.overTable (Fin.ofNat 4 ((m - 9) / 128)) ((m - 9) % 128)

/-- The chain after its first `n` transforms. -/
def Chain.after (c : CipherState) (n : Nat) : Chain :=
  (List.range n).foldl Chain.transformAt { c := c, x := (0, 0) }

theorem Chain.after_succ (c : CipherState) (n : Nat) :
    Chain.after c (n + 1) = (Chain.after c n).transformAt n := by
  simp only [Chain.after, List.range_succ, List.foldl_append, List.foldl_cons, List.foldl_nil]

/-- The first 9 transforms are those over `P`. -/
theorem Chain.after_nine (c : CipherState) :
    Chain.after c 9 = (List.range 9).foldl Chain.overSubkeys { c := c, x := (0, 0) } := rfl

/-- The 128 transforms over one table, one at a time. -/
theorem Chain.after_table (c : CipherState) (t : Fin 4) : ∀ n, n ≤ 128 →
    Chain.after c (9 + 128 * t.val + n) =
      (List.range n).foldl (Chain.overTable t) (Chain.after c (9 + 128 * t.val)) := by
  intro n
  induction n with
  | zero => intro _; rfl
  | succ n ih =>
    intro hn
    rw [← Nat.add_assoc, Chain.after_succ, ih (by omega), List.range_succ, List.foldl_append,
      List.foldl_cons, List.foldl_nil]
    have ht : Fin.ofNat 4 ((9 + 128 * t.val + n - 9) / 128) = t := by
      apply Fin.ext
      show (9 + 128 * t.val + n - 9) / 128 % 4 = t.val
      have := t.isLt
      omega
    have hj : (9 + 128 * t.val + n - 9) % 128 = n := by omega
    rw [Chain.transformAt, if_neg (by omega), ht, hj]

/-- Step 3 is the chain of 521 transforms (R74, R77(b)). -/
theorem Chain.run_eq (c : CipherState) : Chain.run c = Chain.after c 521 := by
  have h0 := Chain.after_table c 0 128 (Nat.le_refl _)
  have h1 := Chain.after_table c 1 128 (Nat.le_refl _)
  have h2 := Chain.after_table c 2 128 (Nat.le_refl _)
  have h3 := Chain.after_table c 3 128 (Nat.le_refl _)
  simp only [Fin.val_zero, Fin.val_one, Fin.val_two, show (3 : Fin 4).val = 3 from rfl,
    Nat.reduceMul, Nat.reduceAdd] at h0 h1 h2 h3
  rw [h3, h2, h1, h0, Chain.after_nine]
  simp only [Chain.run, List.foldl_cons, List.foldl_nil, Chain.throughTable]

/-- `DERIVE` in terms of the chain. -/
theorem derive_eq (key : Key) : derive key = (Chain.after key.folded 521).c := by
  unfold derive
  rw [Chain.run_eq]

/-! ## The words of the tables in the order of step 3 -/

/-- A read of a table with a default, by cases on the index. -/
theorem getD_eq_dite {α : Type} {n : Nat} (v : Vector α n) (i : Nat) (d : α) :
    v.getD i d = if h : i < n then v[i] else d := by
  obtain ⟨a, rfl⟩ := v
  simp [Vector.getD, Array.getD]

/-- Two CipherStates with the same 1042 words are equal. -/
theorem CipherState.ext_wordAt {c d : CipherState}
    (h : ∀ q, q < 1042 → c.wordAt q = d.wordAt q) : c = d := by
  obtain ⟨p, s⟩ := c
  obtain ⟨p', s'⟩ := d
  have hp : p = p' := by
    apply Vector.ext
    intro i hi
    have := h i (by omega)
    simpa [CipherState.wordAt, hi, getD_eq_dite] using this
  have hs : s = s' := by
    apply Vector.ext
    intro t ht
    apply Vector.ext
    intro j hj
    have := h (18 + 256 * t + j) (by omega)
    have e1 : (18 + 256 * t + j - 18) / 256 = t := by omega
    have e2 : (18 + 256 * t + j - 18) % 256 = j := by omega
    simpa [CipherState.wordAt, show ¬ 18 + 256 * t + j < 18 by omega, e1, e2, ht, hj,
      getD_eq_dite] using this
  rw [hp, hs]

/-- What a table holds after a pair is stored in its places `s` and `s + 1`. -/
theorem getD_putPair (v : Vector Word n) (s : Nat) (x : Word × Word) (hs : s + 1 < n) (i : Nat) :
    (putPair v s x).getD i 0 =
      if i = s then x.1 else if i = s + 1 then x.2 else v.getD i 0 := by
  simp only [putPair, getD_eq_dite]
  by_cases hi : i < n
  · simp only [hi, dif_pos]
    rw [Vector.getElem_setIfInBounds, Vector.getElem_setIfInBounds]
    by_cases h1 : i = s
    · subst h1; simp
    · by_cases h2 : i = s + 1
      · subst h2; simp
      · simp [h1, h2, Ne.symm h1, Ne.symm h2]
  · simp [hi, show ¬ i = s by omega, show ¬ i = s + 1 by omega]

/-- The pair that transform `m` gives. -/
theorem Chain.transformAt_x (g : Chain) (m : Nat) :
    (g.transformAt m).x = fwd g.c g.x.1 g.x.2 := by
  unfold Chain.transformAt
  split <;> rfl

/-- Transform `m` writes words 2m and 2m+1 and no other (R74). -/
theorem Chain.transformAt_wordAt (g : Chain) (m q : Nat) (hm : m < 521) (hq : q < 1042) :
    (g.transformAt m).c.wordAt q =
      if q = 2 * m then (fwd g.c g.x.1 g.x.2).1
      else if q = 2 * m + 1 then (fwd g.c g.x.1 g.x.2).2 else g.c.wordAt q := by
  unfold Chain.transformAt
  split
  · rename_i h9
    simp only [Chain.overSubkeys, CipherState.wordAt]
    by_cases hq18 : q < 18
    · simp only [hq18, if_true]
      exact getD_putPair _ _ _ (by omega) _
    · simp only [hq18, if_false, show ¬ q = 2 * m by omega, show ¬ q = 2 * m + 1 by omega]
  · rename_i h9
    have hv : (Fin.ofNat 4 ((m - 9) / 128)).val = (m - 9) / 128 := by
      show (m - 9) / 128 % 4 = _
      omega
    simp only [Chain.overTable, CipherState.wordAt]
    by_cases hq18 : q < 18
    · simp only [hq18, if_true, show ¬ q = 2 * m by omega, show ¬ q = 2 * m + 1 by omega, if_false]
    · simp only [hq18, if_false]
      generalize ht : Fin.ofNat 4 ((m - 9) / 128) = t at hv ⊢
      have hq4 : (q - 18) / 256 < 4 := by omega
      by_cases hst : (q - 18) / 256 = t.val
      · have e : ((g.c.s.set t (putPair (g.c.s.get t) (2 * ((m - 9) % 128))
            (fwd g.c g.x.1 g.x.2))).getD ((q - 18) / 256) (Vector.replicate 256 0)) =
            putPair (g.c.s.get t) (2 * ((m - 9) % 128)) (fwd g.c g.x.1 g.x.2) := by
          simp [getD_eq_dite, hst]
        have e' : g.c.s.getD ((q - 18) / 256) (Vector.replicate 256 0) = g.c.s.get t := by
          simp [getD_eq_dite, hst, Vector.get]
        rw [e, e', getD_putPair _ _ _ (by omega)]
        by_cases h1 : q = 2 * m
        · rw [if_pos h1, if_pos (by omega)]
        · by_cases h2 : q = 2 * m + 1
          · rw [if_neg h1, if_pos h2, if_neg (by omega), if_pos (by omega)]
          · rw [if_neg h1, if_neg h2, if_neg (by omega), if_neg (by omega)]
      · have e : ((g.c.s.set t (putPair (g.c.s.get t) (2 * ((m - 9) % 128))
            (fwd g.c g.x.1 g.x.2))).getD ((q - 18) / 256) (Vector.replicate 256 0)) =
            g.c.s.getD ((q - 18) / 256) (Vector.replicate 256 0) := by
          simp only [getD_eq_dite, hq4, dif_pos]
          rw [Vector.getElem_set, if_neg (Ne.symm hst)]
        rw [e, if_neg (by omega), if_neg (by omega)]

end Sys2Proof.Machine
end

