-- ==== Sys2Proof/Laws/PerInstr.lean ====
section
/-! SUPPORT. Statements made for every instruction, one lemma per constructor. Family `OwnWord`: the
command is well-formed, its word has `ZERO` = 0 (R53 of spec/30_encoding.md), and its word decodes to it
(R55). -/

namespace Sys2Proof.Laws.OwnWord

/-- What the family says of one instruction, as syntax. -/
def Statement (i : Instr) : Prop :=
  i.wellFormed = true ∧ i.fields.zero = 0 ∧ decode (encode i) = .ok i

theorem beInit (m : Mode) : Statement (.beInit m) := by
  cases m <;> exact ⟨rfl, rfl, rfl⟩

theorem beBlksz : Statement .beBlksz := ⟨rfl, rfl, rfl⟩

theorem beProc (m : Mode) : Statement (.beProc m) := by
  cases m <;> exact ⟨rfl, rfl, rfl⟩

theorem pcNew : Statement .pcNew := ⟨rfl, rfl, rfl⟩

theorem pcCrypt : Statement .pcCrypt := ⟨rfl, rfl, rfl⟩

theorem pcDecrypt : Statement .pcDecrypt := ⟨rfl, rfl, rfl⟩

theorem pcChecksum : Statement .pcChecksum := ⟨rfl, rfl, rfl⟩

end Sys2Proof.Laws.OwnWord
end

