-- ==== Sys2Proof/Laws/Step.lean ====
section
/-! SUPPORT. What one step can do, said once (R60 of spec/30_encoding.md): the host's next access and its
outcome, case by case. -/

namespace Sys2Proof.Machine

/-- With no access to come a step changes nothing. -/
theorem step_idle {s : State} (h : s.pending = []) : step s = .next s := by
  simp [step, takeAccess, h]

/-- A step is the host's next access, taken off the list. -/
theorem step_access {s : State} {a : Access} {rest : List Access} (h : s.pending = a :: rest) :
    step s = access a (s.withPending rest) := by
  simp [step, takeAccess, h]

/-- Everything a step can be. -/
theorem step_next {s t : State} (h : step s = .next t) :
    (s.pending = [] ∧ t = s) ∨
      ∃ a rest, s.pending = a :: rest ∧ access a (s.withPending rest) = .next t := by
  cases hp : s.pending with
  | nil => rw [step_idle hp] at h; cases h; exact .inl ⟨rfl, rfl⟩
  | cons a rest => rw [step_access hp] at h; exact .inr ⟨a, rest, rfl, h⟩

/-! ## The accesses, one by one -/

@[simp] theorem access_wr_cmd (s : State) (w : Word) : access (.wr 0 w) s = issue w s := rfl

theorem access_wr_reg (s : State) {off : Nat} (v : Word) (h0 : off ≠ 0)
    (hk : inKeymemWindow off = false) : access (.wr off v) s = .next (s.writeReg off v) := by
  simp [access, h0, hk]

theorem access_rd (s : State) {off : Nat} (hk : inKeymemWindow off = false) :
    access (.rd off) s = .next (s.reply (.word (s.readReg off))) := by
  simp [access, hk]

theorem access_wrk (s : State) {i : Nat} (b : Byte) (h : i < 56) :
    access (.wrk i b) s = .next (s.storeKeymem i b) := by
  simp [access, h]

theorem access_wrk_ignored (s : State) {i : Nat} (b : Byte) (h : 56 ≤ i) :
    access (.wrk i b) s = .next s := by
  simp [access, Nat.not_lt.mpr h]

theorem access_wrm (s : State) {a : Nat} (b : Byte) (h : a < s.memBytes) :
    access (.wrm a b) s = .next (s.storeDmem a b) := by
  simp [access, h]

theorem access_wrm_fault (s : State) {a : Nat} (b : Byte) (h : s.memBytes ≤ a) :
    access (.wrm a b) s = .fault (.dmemAddress a) := by
  simp [access, Nat.not_lt.mpr h]

theorem access_rdm (s : State) {a : Nat} (h : a < s.memBytes) :
    access (.rdm a) s = .next (s.reply (.byte (s.dmemByte a))) := by
  simp [access, h]

/-- Everything an access can be. -/
theorem access_next {a : Access} {s t : State} (h : access a s = .next t) :
    (∃ w, a = .wr 0 w ∧ issue w s = .next t) ∨
    (∃ off v, a = .wr off v ∧ off ≠ 0 ∧ t = s.writeReg off v) ∨
    (∃ r, t = s.reply r ∧ ((∃ off, a = .rd off) ∨ (∃ i, a = .rdk i) ∨ ∃ x, a = .rdm x)) ∨
    (∃ i b, a = .wrk i b ∧ i < 56 ∧ t = s.storeKeymem i b) ∨
    (∃ i b, a = .wrk i b ∧ 56 ≤ i ∧ t = s) ∨
    (∃ x b, a = .wrm x b ∧ x < s.memBytes ∧ t = s.storeDmem x b) ∨
    (a = .reset ∧ t = s.applyReset) := by
  cases a with
  | wr off v =>
    by_cases h0 : off = 0
    · subst h0; exact .inl ⟨v, rfl, h⟩
    · simp only [access, h0, if_false] at h
      split at h
      · cases h
      · cases h; exact .inr (.inl ⟨off, v, rfl, h0, rfl⟩)
  | rd off =>
    simp only [access] at h
    split at h
    · cases h
    · cases h; exact .inr (.inr (.inl ⟨_, rfl, .inl ⟨off, rfl⟩⟩))
  | wrk i b =>
    simp only [access] at h
    split at h
    · rename_i hi; cases h; exact .inr (.inr (.inr (.inl ⟨i, b, rfl, hi, rfl⟩)))
    · rename_i hi
      cases h
      exact .inr (.inr (.inr (.inr (.inl ⟨i, b, rfl, Nat.not_lt.mp hi, rfl⟩))))
  | rdk i => cases h; exact .inr (.inr (.inl ⟨_, rfl, .inr (.inl ⟨i, rfl⟩)⟩))
  | wrm x b =>
    simp only [access] at h
    split at h
    · rename_i hx; cases h; exact .inr (.inr (.inr (.inr (.inr (.inl ⟨x, b, rfl, hx, rfl⟩)))))
    · cases h
  | rdm x =>
    simp only [access] at h
    split at h
    · cases h; exact .inr (.inr (.inl ⟨_, rfl, .inr (.inr ⟨x, rfl⟩)⟩))
    · cases h
  | reset => cases h; exact .inr (.inr (.inr (.inr (.inr (.inr ⟨rfl, rfl⟩)))))

/-- A write to `REG.CMD` is a command or the bad-command error (R54). -/
theorem issue_next {w : Word} {s t : State} (h : issue w s = .next t) :
    (∃ i, decode w = .ok i ∧ exec i s = .next t) ∨
    (∃ e, decode w = .error e ∧ t = s.raise .badCmd) := by
  unfold issue at h
  split at h
  · rename_i i hd; exact .inl ⟨i, hd, h⟩
  · rename_i e hd; cases h; exact .inr ⟨e, hd, rfl⟩

/-! ## The commands as their tests and effects -/

theorem exec_beInit (m : Mode) (s : State) :
    exec (.beInit m) s = finish (beInitTests m s) s ((s.initEngine m).done 0) := rfl

theorem exec_beBlksz (s : State) : exec .beBlksz s = .next (s.done 8) := rfl

theorem exec_beProc (m : Mode) (s : State) :
    exec (.beProc m) s =
      finish (beProcTests m s) s ((s.block m s.procIn s.procOut).done 0) := rfl

theorem exec_pcNew (s : State) :
    exec .pcNew s = finish (pcNewTests s) s (((s.initEngine .enc).initEngine .dec).done 0) := rfl

theorem exec_pcCrypt (s : State) : exec .pcCrypt s = transformBuffer .enc s := rfl

theorem exec_pcDecrypt (s : State) : exec .pcDecrypt s = transformBuffer .dec s := rfl

theorem exec_pcChecksum (s : State) :
    exec .pcChecksum s = finish (checksumTests s) s ((s.putLe32 s.trailer s.payloadChecksum).done
      (boolWord (s.le32 s.trailer == s.payloadChecksum))) := rfl

/-- Everything a command can do: raise one class (R113), or, its tests passed, have its effects. -/
theorem exec_next {i : Instr} {s t : State} (h : exec i s = .next t) :
    (∃ c, t = s.raise c) ∨
    (∃ m, i = .beInit m ∧ firstError (beInitTests m s) = none ∧ t = (s.initEngine m).done 0) ∨
    (i = .beBlksz ∧ t = s.done 8) ∨
    (∃ m, i = .beProc m ∧ firstError (beProcTests m s) = none ∧
      t = (s.block m s.procIn s.procOut).done 0) ∨
    (i = .pcNew ∧ firstError (pcNewTests s) = none ∧
      t = ((s.initEngine .enc).initEngine .dec).done 0) ∨
    (∃ m, ((i = .pcCrypt ∧ m = .enc) ∨ (i = .pcDecrypt ∧ m = .dec)) ∧
      firstError (bufferTests m s) = none ∧
      t = (s.blocks m s.inBase.toNat s.outBase.toNat (s.inLen.toNat / 8)).done s.inLen) ∨
    (i = .pcChecksum ∧ firstError (checksumTests s) = none ∧
      t = (s.putLe32 s.trailer s.payloadChecksum).done
        (boolWord (s.le32 s.trailer == s.payloadChecksum))) := by
  cases i with
  | beInit m =>
    rcases finish_next h with ⟨c, _, rfl⟩ | ⟨hn, rfl⟩
    · exact .inl ⟨c, rfl⟩
    · exact .inr (.inl ⟨m, rfl, hn, rfl⟩)
  | beBlksz => cases h; exact .inr (.inr (.inl ⟨rfl, rfl⟩))
  | beProc m =>
    rcases finish_next h with ⟨c, _, rfl⟩ | ⟨hn, rfl⟩
    · exact .inl ⟨c, rfl⟩
    · exact .inr (.inr (.inr (.inl ⟨m, rfl, hn, rfl⟩)))
  | pcNew =>
    rcases finish_next h with ⟨c, _, rfl⟩ | ⟨hn, rfl⟩
    · exact .inl ⟨c, rfl⟩
    · exact .inr (.inr (.inr (.inr (.inl ⟨rfl, hn, rfl⟩))))
  | pcCrypt =>
    rcases finish_next h with ⟨c, _, rfl⟩ | ⟨hn, rfl⟩
    · exact .inl ⟨c, rfl⟩
    · exact .inr (.inr (.inr (.inr (.inr (.inl ⟨.enc, .inl ⟨rfl, rfl⟩, hn, rfl⟩)))))
  | pcDecrypt =>
    rcases finish_next h with ⟨c, _, rfl⟩ | ⟨hn, rfl⟩
    · exact .inl ⟨c, rfl⟩
    · exact .inr (.inr (.inr (.inr (.inr (.inl ⟨.dec, .inr ⟨rfl, rfl⟩, hn, rfl⟩)))))
  | pcChecksum =>
    rcases finish_next h with ⟨c, _, rfl⟩ | ⟨hn, rfl⟩
    · exact .inl ⟨c, rfl⟩
    · exact .inr (.inr (.inr (.inr (.inr (.inr ⟨rfl, hn, rfl⟩)))))

/-- A command that ends with `ERR` = 0 has passed its tests, and its effects have happened (R113). -/
theorem finish_done {l : List (Bool × ErrClass)} {s d t : State} (h : finish l s d = .next t)
    (he : t.err = 0) : firstError l = none ∧ t = d := by
  rcases finish_next h with ⟨c, _, rfl⟩ | h
  · exact absurd he (ErrClass.code_ne_zero c)
  · exact h

end Sys2Proof.Machine
end

