-- ==== Sys2Proof/Tests/Slice0.lean ====
section
/-! SUPPORT. The model's own tests. Expected values are those of spec/95_test_vectors.md (V10 to V27) and
of the examples in the rules; the `witness_` theorems show, for every statement that has hypotheses, a
concrete state and operands that meet them all. -/

namespace Sys2Proof.Tests

set_option Elab.async false

open Sys2Proof.Machine

/-! ## Small states -/

/-- Consecutive bytes from an address on, as a memory lists them. -/
def bytesAt (a : Nat) : List Byte → Memory
  | [] => []
  | b :: rest => (a, b) :: bytesAt (a + 1) rest

/-- The machine after reset, with `MEM_BYTES` = 64 (the size in V19, V22 and V23). -/
def blank : State := { State.reset with memBytes := 64 }

/-- A slot with the constant tables in it, marked initialised: the state of the worked example R83. -/
def constEngine : Engine := { tables := { p := Config.pInit, s := Config.sInit }, init := true }

/-- A slot with tables of zeros, marked initialised; it stands where the tables do not matter. -/
def zeroEngine : Engine := { tables := CipherState.unspecified, init := true }

/-- `blank` with both slots marked initialised. -/
def twoEngines : State := { blank with eng0 := zeroEngine, eng1 := zeroEngine }

/-- `twoEngines` with the six operand registers loaded (the columns of V19). -/
def operands (inBase inLen inOff outBase outLen outOff : Word) : State :=
  { twoEngines with
    inBase := inBase
    inLen := inLen
    inOff := inOff
    outBase := outBase
    outLen := outLen
    outOff := outOff }

/-- `blank` with a key length and a first key byte. -/
def keyed (n : BitVec 6) : State :=
  { blank with keylen := n, keymem := [(0, 0x61)] }

/-- `blank` with a buffer at address 0 and its length in `IN_LEN`. -/
def buffer (l : List Byte) : State :=
  { blank with dmem := bytesAt 0 l, inLen := BitVec.ofNat 32 l.length }

/-- The outcome is a next state in which the test holds. -/
def ends (o : Host.Outcome State Fault Refusal) (p : State → Bool) : Bool :=
  match o with
  | .next t => p t
  | .fault _ => false
  | .refused _ => false

/-- An outcome that ends well is a next state. -/
theorem ends_next {o : Host.Outcome State Fault Refusal} {p : State → Bool} (h : ends o p = true) :
    ∃ t, o = .next t ∧ p t = true := by
  cases o with
  | next t => exact ⟨t, rfl, h⟩
  | fault f => cases h
  | refused r => cases h

/-- An outcome that ends with `ERR` = 0 is a next state with `ERR` = 0. -/
theorem succeeds {o : Host.Outcome State Fault Refusal} (h : ends o (fun t => t.err == 0) = true) :
    ∃ t, o = .next t ∧ t.err = 0 := by
  obtain ⟨t, ht, he⟩ := ends_next h
  exact ⟨t, ht, by simpa using he⟩

/-- The bytes of DMEM from an address on. -/
def dmemBytes (t : State) (a n : Nat) : List Byte := (List.range n).map fun i => t.dmemByte (a + i)

/-! ## Ill-formed fields are refused (R54, R56) -/

/-- Each check of `wellFormed` refuses a word of its own kind: a set bit in 31:5 (word 0x23), a reserved
`OP` (word 8), a mode where none is taken (word 0x12). -/
theorem test_wellFormed_refuses :
    ({ zero := 1, m := 0, op := 3 } : CommandFields).zeroOk = false ∧
    ({ zero := 1, m := 0, op := 3 } : CommandFields).wellFormed = false ∧
    ({ zero := 0, m := 0, op := 8 } : CommandFields).opOk = false ∧
    ({ zero := 0, m := 0, op := 8 } : CommandFields).wellFormed = false ∧
    ({ zero := 0, m := 1, op := 2 } : CommandFields).modeOk = false ∧
    ({ zero := 0, m := 1, op := 2 } : CommandFields).wellFormed = false ∧
    ({ zero := 0, m := 1, op := 3 } : CommandFields).wellFormed = true := by decide

/-! ## Words written out from the encoding (R53, R55, V25) -/

theorem test_decode_beInit_enc :
    decode 0b00000000000000000000000000000001 = .ok (.beInit .enc) := rfl
theorem test_decode_beInit_dec :
    decode 0b00000000000000000000000000010001 = .ok (.beInit .dec) := rfl
theorem test_decode_beBlksz : decode 0b00000000000000000000000000000010 = .ok .beBlksz := rfl
theorem test_decode_beProc_enc :
    decode 0b00000000000000000000000000000011 = .ok (.beProc .enc) := rfl
theorem test_decode_beProc_dec :
    decode 0b00000000000000000000000000010011 = .ok (.beProc .dec) := rfl
theorem test_decode_pcNew : decode 0b00000000000000000000000000000100 = .ok .pcNew := rfl
theorem test_decode_pcCrypt : decode 0b00000000000000000000000000000101 = .ok .pcCrypt := rfl
theorem test_decode_pcDecrypt : decode 0b00000000000000000000000000000110 = .ok .pcDecrypt := rfl
theorem test_decode_pcChecksum : decode 0b00000000000000000000000000000111 = .ok .pcChecksum := rfl

/-- V25's rows of reserved words, at the edges of each range. -/
theorem test_decode_reserved :
    decode 0x00000000 = .error .reservedOpcode ∧ decode 0x0000000F = .error .reservedOpcode ∧
    decode 0x00000010 = .error .reservedOpcode ∧ decode 0x00000017 = .error .reservedMode ∧
    decode 0x00000021 = .error .reservedBits ∧ decode 0xFFFFFFFF = .error .reservedBits :=
  ⟨rfl, rfl, rfl, rfl, rfl, rfl⟩

/-- The table's numbering of bits and the placing of a word before the next step. -/
theorem test_withFetchWord :
    decodeTableWord 32 0x13 = some (.beProc .dec) ∧ decodeTableWord 32 0x12 = none ∧
    ends (step (blank.withFetchWord 32 2)) (fun t => t.result == 8) = true := by decide +kernel

/-! ## The Feistel core and the key schedule -/

/-- V11, rows 2 and 4: `F` over the constant tables. -/
theorem test_roundF :
    roundF constEngine.tables 0x01234567 = 0xF36E574C ∧
    roundF constEngine.tables 0x000000FF = 0x305999CD := by decide +kernel

/-- V16: the second transform of step 3 reads the subkeys that the first has just written. -/
theorem test_chain_reads_what_it_wrote :
    (((Chain.mk constEngine.tables (0, 0)).overSubkeys 0).overSubkeys 1).x =
      (0x2DB9D714, 0x966E1439) := by decide +kernel

/-- V14: subkeys 0, 6 and 17 after step 2, for the key of 26 letters; subkey 6 takes `z` and then wraps
to `a`. -/
theorem test_key_folding :
    let p := (Key.mk 0x61 ((List.range 25).map fun i => BitVec.ofNat 8 (0x62 + i))).foldedSubkeys
    p.get 0 = 0x455D09EC ∧ p.get 6 = 0x71549BFA ∧ p.get 17 = 0xF80B886F := by decide +kernel

/-! ## The commands, one step each -/

/-- V20: a `KEYLEN` of 57 is refused, and 56 is taken: `STATUS` = 00000100. -/
theorem test_beInit_keylen :
    ends (exec (.beInit .enc) (keyed 57)) (fun t => t.status == 0x00000005) = true ∧
    ends (exec (.beInit .enc) (keyed 56)) (fun t => t.status == 0x00000100 && t.result == 0) =
      true := by decide +kernel

/-- V20: a second `BE_INIT ENC` is refused as such even with `KEYLEN` = 0, and the other slot is free. -/
theorem test_beInit_again :
    ends (exec (.beInit .enc) { blank with eng0 := zeroEngine }) (fun t => t.status == 0x00000106) =
      true ∧
    ends (exec (.beInit .dec) { keyed 1 with eng0 := zeroEngine })
      (fun t => t.status == 0x00000300) = true := by decide +kernel

/-- V20: `BE_BLKSZ` after reset gives `STATUS` = 00000000, `RESULT` = 8. -/
theorem test_beBlksz :
    ends (exec .beBlksz blank) (fun t => t.status == 0 && t.result == 8) = true := by
  decide +kernel

/-- V12 through R94: a block of zeros over the constant tables gives the words 706D9FCC, 1792D23A, each
stored with its least significant byte first; `BE_PROC DEC` takes them back to zeros (R85). -/
theorem test_beProc_words :
    ends (exec (.beProc .enc) { operands 0 8 0 8 8 0 with
        eng0 := constEngine, dmem := bytesAt 0 (List.replicate 8 0) })
      (fun t => dmemBytes t 8 8 == [0xCC, 0x9F, 0x6D, 0x70, 0x3A, 0xD2, 0x92, 0x17]) = true ∧
    ends (exec (.beProc .dec) { operands 0 8 0 8 8 0 with
        eng1 := constEngine, dmem := bytesAt 0 [0xCC, 0x9F, 0x6D, 0x70, 0x3A, 0xD2, 0x92, 0x17] })
      (fun t => dmemBytes t 8 8 == List.replicate 8 0) = true := by decide +kernel

/-- V19, rows 3, 6, 7, 9, 11, 12: no wrap of an offset; bounds before addresses; the edge of DMEM; windows
that share one byte, and windows that only touch. -/
theorem test_beProc_errors :
    ends (exec (.beProc .enc) (operands 0 16 0xFFFFFFFC 32 16 0)) (fun t => t.err == 3) = true ∧
    ends (exec (.beProc .enc) (operands 0 16 9 56 16 0)) (fun t => t.err == 3) = true ∧
    ends (exec (.beProc .enc) (operands 0 16 8 56 16 0)) (fun t => t.err == 7) = true ∧
    ends (exec (.beProc .enc) (operands 57 8 0 0 8 0)) (fun t => t.err == 7) = true ∧
    ends (exec (.beProc .enc) (operands 0 16 8 1 16 0)) (fun t => t.err == 8) = true ∧
    ends (exec (.beProc .enc) (operands 0 16 8 0 16 0)) (fun t => t.err == 0) = true := by
  decide +kernel

/-- V24: `PC_NEW` with `KEYLEN` = 0, with a legal key, and after `BE_INIT DEC`. -/
theorem test_pcNew :
    ends (exec .pcNew blank) (fun t => t.status == 0x00000004) = true ∧
    ends (exec .pcNew (keyed 1)) (fun t => t.status == 0x00000300) = true ∧
    ends (exec .pcNew { keyed 1 with eng1 := zeroEngine }) (fun t => t.status == 0x00000206) =
      true := by decide +kernel

/-- V22, rows 5, 8, 9, 11, 12 and the row with the slot uninitialised. -/
theorem test_pcCrypt_errors :
    ends (exec .pcCrypt (operands 0 12 0 32 0 0)) (fun t => t.err == 2) = true ∧
    ends (exec .pcCrypt (operands 0 32 0 8 0 0)) (fun t => t.err == 8) = true ∧
    ends (exec .pcCrypt (operands 0 32 0 33 0 0)) (fun t => t.err == 7) = true ∧
    ends (exec .pcCrypt (operands 0 0xFFFFFFF8 0 0 0 0)) (fun t => t.err == 7) = true ∧
    ends (exec .pcCrypt (operands 0 9 0 60 0 0)) (fun t => t.err == 2) = true ∧
    ends (exec .pcCrypt { operands 0 72 0 0 0 0 with eng0 := Engine.reset }) (fun t => t.err == 1) =
      true := by decide +kernel

/-- V12 through R102 and R103: two equal blocks, in place over the constant tables, give two equal
blocks, and `RESULT` is the length. -/
theorem test_pcCrypt_in_place :
    ends (exec .pcCrypt { operands 0 16 0 0 0 0 with
        eng0 := constEngine, dmem := bytesAt 0 (List.replicate 16 0) })
      (fun t => t.result == 16 && dmemBytes t 0 16 ==
        [0xCC, 0x9F, 0x6D, 0x70, 0x3A, 0xD2, 0x92, 0x17,
         0xCC, 0x9F, 0x6D, 0x70, 0x3A, 0xD2, 0x92, 0x17]) = true := by decide +kernel

/-- R104 on the same block: slot 1 and the inverse transform, whatever slot 0 holds. -/
theorem test_pcDecrypt :
    ends (exec .pcDecrypt { operands 0 8 0 56 0 0 with
        eng0 := Engine.reset, eng1 := constEngine
        dmem := bytesAt 0 [0xCC, 0x9F, 0x6D, 0x70, 0x3A, 0xD2, 0x92, 0x17] })
      (fun t => t.result == 8 && dmemBytes t 56 8 == List.replicate 8 0) = true := by
  decide +kernel

/-- V23, the row of 20 bytes: the computed word is stored little-endian and the last four bytes stay. -/
theorem test_pcChecksum_overwrites :
    ends (exec .pcChecksum (buffer [0xDE, 0xAD, 0xBE, 0xEF, 0x01, 0x02, 0x03, 0x04,
        0x10, 0x20, 0x30, 0x40, 0x00, 0x00, 0x00, 0x00, 0x99, 0x99, 0x99, 0x99]))
      (fun t => t.err == 0 && t.result == 0 && dmemBytes t 0 20 ==
        [0xDE, 0xAD, 0xBE, 0xEF, 0x01, 0x02, 0x03, 0x04, 0x10, 0x20, 0x30, 0x40,
         0xCF, 0x8F, 0x8D, 0xAB, 0x99, 0x99, 0x99, 0x99]) = true := by decide +kernel

/-- V23: n = 12 with the right word in place; n = 7, 10; and `IN_BASE` = 56 and 57 with n = 8. -/
theorem test_pcChecksum_result_and_errors :
    ends (exec .pcChecksum (buffer [0x78, 0x56, 0x34, 0x12, 0x78, 0x56, 0x34, 0x12,
        0xFF, 0xFF, 0xFF, 0xFF])) (fun t => t.err == 0 && t.result == 1) = true ∧
    ends (exec .pcChecksum { blank with inLen := 7 }) (fun t => t.err == 2) = true ∧
    ends (exec .pcChecksum { blank with inLen := 10 }) (fun t => t.err == 2) = true ∧
    ends (exec .pcChecksum { blank with inLen := 8, inBase := 56 }) (fun t => t.err == 0) = true ∧
    ends (exec .pcChecksum { blank with inLen := 8, inBase := 57 }) (fun t => t.err == 7) =
      true := by decide +kernel

/-! ## The host's port -/

/-- V26: `KEYLEN` keeps bits 5:0. -/
theorem test_keylen_register :
    ends (step (blank.withPending [.wr 0x0C 0x00000141])) (fun t => t.readReg 0x0C == 1) = true ∧
    ends (step (blank.withPending [.wr 0x0C 0x0000003F])) (fun t => t.readReg 0x0C == 0x3F) =
      true := by decide +kernel

/-- V25: a reserved word leaves `STATUS` = 00000009 plus the `INIT` bits, and `RESULT` = 0. -/
theorem test_bad_command :
    ends (step ({ twoEngines with result := 8 }.withPending [.wr 0 0x12]))
      (fun t => t.status == 0x00000309 && t.result == 0) = true := by decide +kernel

/-! ## Witnesses: hypotheses of the statements on command words and host accesses -/

/-- The state with one access to come. -/
def facing (a : Access) : State := twoEngines.withPending [a]

/-- Of `ReservedWordEndsWithBadCommand`, one word for each ground of refusal, at the edges. -/
theorem witness_ReservedWordEndsWithBadCommand :
    ((facing (.wr 0 0x20)).pending = [.wr 0 0x20] ∧ decode 0x20 = .error .reservedBits) ∧
    ((facing (.wr 0 0x08)).pending = [.wr 0 0x08] ∧ decode 0x08 = .error .reservedOpcode) ∧
    ((facing (.wr 0 0x00)).pending = [.wr 0 0x00] ∧ decode 0x00 = .error .reservedOpcode) ∧
    ((facing (.wr 0 0x17)).pending = [.wr 0 0x17] ∧ decode 0x17 = .error .reservedMode) :=
  ⟨⟨rfl, rfl⟩, ⟨rfl, rfl⟩, ⟨rfl, rfl⟩, ⟨rfl, rfl⟩⟩

theorem witness_StepRunsTheDecodedCommand :
    (facing (.wr 0 0x13)).pending = [.wr 0 0x13] ∧ decode 0x13 = .ok (.beProc .dec) ∧
    (Instr.beProc .dec).wellFormed = true := ⟨rfl, rfl, rfl⟩

theorem witness_StepWaitsForTheHost : State.reset.pending = [] := rfl

theorem witness_RegisterWritesStore (v : Word) :
    (facing (.wr 0x0C v)).pending = [.wr 0x0C v] ∧ (facing (.wr 0x10 v)).pending = [.wr 0x10 v] ∧
    (facing (.wr 0x14 v)).pending = [.wr 0x14 v] ∧ (facing (.wr 0x18 v)).pending = [.wr 0x18 v] ∧
    (facing (.wr 0x1C v)).pending = [.wr 0x1C v] ∧ (facing (.wr 0x20 v)).pending = [.wr 0x20 v] ∧
    (facing (.wr 0x24 v)).pending = [.wr 0x24 v] := ⟨rfl, rfl, rfl, rfl, rfl, rfl, rfl⟩

/-- Of `OtherRegisterWritesAreIgnored`: both read-only registers, and the edges of the offsets that the
table does not list. -/
theorem witness_OtherRegisterWritesAreIgnored (v : Word) :
    (∀ off, (facing (.wr off v)).pending = [.wr off v]) ∧
    unlistedOffset 0x28 ∧ unlistedOffset 0x3C ∧ unlistedOffset 0x78 ∧ unlistedOffset 0x05 :=
  ⟨fun _ => rfl, by unfold unlistedOffset; decide, by unfold unlistedOffset; decide,
    by unfold unlistedOffset; decide, by unfold unlistedOffset; decide⟩

/-- Of `RegisterReadsReturn`: the first and the last listed register, and the offsets on both sides of
the KEYMEM window. -/
theorem witness_RegisterReadsReturn :
    (∀ off, (facing (.rd off)).pending = [.rd off]) ∧
    ¬ (0x40 ≤ 0x00 ∧ 0x00 < 0x78) ∧ ¬ (0x40 ≤ 0x24 ∧ 0x24 < 0x78) ∧
    (¬ (0x40 ≤ 0x3C ∧ 0x3C < 0x78) ∧ unlistedOffset 0x3C) ∧
    (¬ (0x40 ≤ 0x78 ∧ 0x78 < 0x78) ∧ unlistedOffset 0x78) :=
  ⟨fun _ => rfl, by decide, by decide, ⟨by decide, by unfold unlistedOffset; decide⟩,
    ⟨by decide, by unfold unlistedOffset; decide⟩⟩

/-- Of `StatusFieldsReadAsStated`: a reserved bit between the fields, and `BUSY`. -/
theorem witness_StatusFieldsReadAsStated :
    (4 ≤ 7 ∧ 7 ≠ 8 ∧ 7 ≠ 9) ∧ (4 ≤ 10 ∧ 10 ≠ 8 ∧ 10 ≠ 9) ∧ (4 ≤ 31 ∧ 31 ≠ 8 ∧ 31 ≠ 9) := by decide

/-- Of `KeymemWriteStoresOneByte`: the last byte, and the first index past it. -/
theorem witness_KeymemWriteStoresOneByte (b : Byte) :
    ((facing (.wrk 55 b)).pending = [.wrk 55 b] ∧ 55 < 56 ∧ 54 ≠ 55) ∧
    (facing (.wrk 56 b)).pending = [.wrk 56 b] ∧ 56 ≤ 56 := ⟨⟨rfl, by decide⟩, rfl, by decide⟩

/-- Of `DmemWriteStoresOneByte`: the last byte, and the first address past it. -/
theorem witness_DmemWriteStoresOneByte (b : Byte) :
    ((facing (.wrm 63 b)).pending = [.wrm 63 b] ∧ 63 < (facing (.wrm 63 b)).memBytes ∧ 62 ≠ 63) ∧
    (facing (.wrm 64 b)).pending = [.wrm 64 b] ∧ (facing (.wrm 64 b)).memBytes ≤ 64 :=
  ⟨⟨rfl, Nat.lt_succ_self 63, by decide⟩, rfl, Nat.le_refl 64⟩

/-- Of `ReadsHaveNoSideEffect`: a read of each kind completes. -/
theorem witness_ReadsHaveNoSideEffect :
    ((facing (.rd 4)).pending = [.rd 4] ∧ ∃ t, step (facing (.rd 4)) = .next t) ∧
    ((facing (.rdk 55)).pending = [.rdk 55] ∧ ∃ t, step (facing (.rdk 55)) = .next t) ∧
    ((facing (.rdm 63)).pending = [.rdm 63] ∧ ∃ t, step (facing (.rdm 63)) = .next t) :=
  ⟨⟨rfl, _, rfl⟩, ⟨rfl, _, rfl⟩, ⟨rfl, _, rfl⟩⟩

theorem witness_MemoryReadsReturnTheByte :
    ((facing (.rdk 55)).pending = [.rdk 55] ∧ 55 < 56) ∧
    (facing (.rdm 63)).pending = [.rdm 63] ∧ 63 < (facing (.rdm 63)).memBytes :=
  ⟨⟨rfl, by decide⟩, rfl, by decide⟩

/-- Of `WordAccessToKeymemIsRefused`: the first and the last offset of the window. -/
theorem witness_WordAccessToKeymemIsRefused (v : Word) :
    (0x40 ≤ 0x40 ∧ 0x40 < 0x78 ∧ (facing (.wr 0x40 v)).pending = [.wr 0x40 v]) ∧
    (0x40 ≤ 0x77 ∧ 0x77 < 0x78 ∧ (facing (.rd 0x77)).pending = [.rd 0x77]) :=
  ⟨⟨by decide, by decide, rfl⟩, ⟨by decide, by decide, rfl⟩⟩

theorem witness_ResetGivesTheResetValues : (facing .reset).pending = [.reset] := rfl

/-! ## Witnesses: the Feistel core and the key schedule -/

theorem witness_RoundFunctionFormula :
    (0x01234567 : Word).toNat = (0x01 : Fin 256).val * 2 ^ 24 + (0x23 : Fin 256).val * 2 ^ 16 +
      (0x45 : Fin 256).val * 2 ^ 8 + (0x67 : Fin 256).val := by decide

/-- The halves over tables of zeros, where every `F` and every subkey is 0: they alternate. -/
def halves (n : Nat) : Word := if n % 2 = 0 then 3 else 5

theorem witness_ForwardTransformStepByStep :
    halves 1 = 5 ^^^ CipherState.unspecified.p.get 0 ∧
    ∀ n, n < 16 → halves (n + 2) = halves n ^^^ roundF CipherState.unspecified (halves (n + 1)) ^^^
      CipherState.unspecified.p.get (Fin.ofNat 18 (n + 1)) := by decide +kernel

theorem witness_InverseTransformStepByStep :
    halves 1 = 5 ^^^ CipherState.unspecified.p.get 17 ∧
    ∀ n, n < 16 → halves (n + 2) = halves n ^^^ roundF CipherState.unspecified (halves (n + 1)) ^^^
      CipherState.unspecified.p.get (Fin.ofNat 18 (16 - n)) := by decide +kernel

/-- V17: the key 61 and the key 61 61. -/
theorem witness_EqualExpansionsDeriveEqualTables :
    ∀ q, q < 72 → (Key.mk 0x61 []).cyclic q = (Key.mk 0x61 [0x61]).cyclic q := by decide +kernel

/-- Of `DeriveIsOneChainOfTransforms`: the first transform and the last. -/
theorem witness_DeriveIsOneChainOfTransforms : 0 < 521 ∧ 520 < 521 := by decide

/-! ## Witnesses: the Block Engine commands -/

/-- Of `BeInitDerivesItsSlotOrRaises`, for each slot: the shortest key. -/
theorem witness_BeInitDerivesItsSlotOrRaises :
    (∀ m, ((keyed 1).eng m).init = false) ∧ (keyed 1).keylen.toNat ≤ 56 ∧
    (keyed 1).key.bytes = (List.range (keyed 1).keylen.toNat).map (keyed 1).keymemByte :=
  ⟨fun m => by cases m <;> rfl, by decide, rfl⟩

/-- The longest key. -/
theorem witness_BeInitDerivesItsSlotOrRaises_longest :
    ((keyed 56).eng .dec).init = false ∧ (keyed 56).keylen.toNat ≤ 56 ∧
    (keyed 56).key.bytes = (List.range (keyed 56).keylen.toNat).map (keyed 56).keymemByte :=
  ⟨rfl, by decide, State.key_bytes _ (by decide)⟩

/-- Of `BeInitDerivesItsSlotOrRaises`, its errors: an initialised slot; no key; the least length that is too long. -/
theorem witness_BeInitDerivesItsSlotOrRaises_errors :
    (twoEngines.eng .dec).init = true ∧
    ((keyed 0).eng .enc).init = false ∧ (keyed 0).keylen.toNat = 0 ∧
    ((keyed 57).eng .enc).init = false ∧ 57 ≤ (keyed 57).keylen.toNat := by decide +kernel

/-- What `BeProcTransformsOneBlockOrRaises` asks of a state. -/
def fitsBeProc (m : Mode) (s : State) : Prop :=
  (s.eng m).init = true ∧ s.inOff.toNat + 8 ≤ s.inLen.toNat ∧ s.outOff.toNat + 8 ≤ s.outLen.toNat ∧
  s.inBase.toNat + s.inLen.toNat ≤ s.memBytes ∧ s.outBase.toNat + s.outLen.toNat ≤ s.memBytes

/-- Of `BeProcTransformsOneBlockOrRaises` (V19): in place; the last legal offsets; adjacent windows. -/
theorem witness_BeProcTransformsOneBlockOrRaises :
    (fitsBeProc .enc (operands 0 16 8 0 16 8) ∧
      (operands 0 16 8 0 16 8).procIn = (operands 0 16 8 0 16 8).procOut) ∧
    (fitsBeProc .dec (operands 0 16 8 32 16 8) ∧
      (operands 0 16 8 32 16 8).procIn + 8 ≤ (operands 0 16 8 32 16 8).procOut) ∧
    (fitsBeProc .enc (operands 0 16 8 0 16 0) ∧
      (operands 0 16 8 0 16 0).procOut + 8 ≤ (operands 0 16 8 0 16 0).procIn) := by
  unfold fitsBeProc; decide +kernel

/-- Of `BeProcTransformsOneBlockOrRaises` (V19), each error clause at the least operand that meets it. -/
theorem witness_BeProcTransformsOneBlockOrRaises_errors :
    (blank.eng .enc).init = false ∧
    (((operands 0 16 9 32 16 0).eng .enc).init = true ∧
      (operands 0 16 9 32 16 0).inLen.toNat < (operands 0 16 9 32 16 0).inOff.toNat + 8) ∧
    ((operands 0 16 8 32 16 9).outLen.toNat < (operands 0 16 8 32 16 9).outOff.toNat + 8) ∧
    ((operands 57 8 0 0 8 0).inOff.toNat + 8 ≤ (operands 57 8 0 0 8 0).inLen.toNat ∧
      (operands 57 8 0 0 8 0).outOff.toNat + 8 ≤ (operands 57 8 0 0 8 0).outLen.toNat ∧
      (operands 57 8 0 0 8 0).memBytes <
        (operands 57 8 0 0 8 0).inBase.toNat + (operands 57 8 0 0 8 0).inLen.toNat) ∧
    (fitsBeProc .enc (operands 0 16 8 1 16 0) ∧
      (operands 0 16 8 1 16 0).procIn ≠ (operands 0 16 8 1 16 0).procOut ∧
      (operands 0 16 8 1 16 0).procIn < (operands 0 16 8 1 16 0).procOut + 8 ∧
      (operands 0 16 8 1 16 0).procOut < (operands 0 16 8 1 16 0).procIn + 8) := by
  unfold fitsBeProc; decide +kernel

/-- Of `BeProcRoundTrip`: a block from 8 to 40 and on to 0, encrypted first or decrypted first. -/
theorem witness_BeProcRoundTrip :
    ∀ m : Mode, ∃ s t u : State, ∃ ob ol oo : Word, s.eng0.tables = s.eng1.tables ∧
      exec (.beProc m) s = .next t ∧ t.err = 0 ∧
      exec (.beProc (otherMode m))
        { t with inBase := s.outBase, inLen := s.outLen, inOff := s.outOff,
                 outBase := ob, outLen := ol, outOff := oo } = .next u ∧ u.err = 0 := by
  intro m
  obtain ⟨t, h1, h⟩ := ends_next (o := exec (.beProc m) (operands 0 16 8 32 16 8))
    (p := fun t => t.err == 0 && ends (exec (.beProc (otherMode m))
      { t with inBase := 32, inLen := 16, inOff := 8, outBase := 0, outLen := 8, outOff := 0 })
      (fun u => u.err == 0)) (by cases m <;> decide +kernel)
  simp only [Bool.and_eq_true, beq_iff_eq] at h
  obtain ⟨u, h2, he⟩ := succeeds h.2
  exact ⟨_, t, u, 0, 8, 0, rfl, h1, h.1, h2, he⟩

/-! ## Witnesses: the Packet Cryptor commands -/

theorem witness_PcNewDerivesBothSlotsOrRaises :
    (keyed 1).eng0.init = false ∧ (keyed 1).eng1.init = false ∧ (keyed 1).keylen.toNat ≤ 56 ∧
    (keyed 1).key.bytes = (List.range (keyed 1).keylen.toNat).map (keyed 1).keymemByte :=
  ⟨rfl, rfl, by decide, rfl⟩

/-- Of `PcNewDerivesBothSlotsOrRaises`, its errors: either slot initialised; no key; the least length that is too long. -/
theorem witness_PcNewDerivesBothSlotsOrRaises_errors :
    ({ blank with eng0 := zeroEngine } : State).eng0.init = true ∧
    ({ blank with eng1 := zeroEngine } : State).eng1.init = true ∧
    ((keyed 0).eng0.init = false ∧ (keyed 0).eng1.init = false ∧ (keyed 0).keylen.toNat = 0) ∧
    ((keyed 57).eng0.init = false ∧ (keyed 57).eng1.init = false ∧
      57 ≤ (keyed 57).keylen.toNat) := by decide +kernel

theorem witness_PcNewDerivesBothSlotsOrRaises_in_a_row :
    (keyed 1).eng0.init = false ∧ (keyed 1).eng1.init = false ∧
    ∃ t, exec (.beInit .enc) (keyed 1) = .next t :=
  ⟨rfl, rfl, (succeeds (by decide +kernel)).imp fun _ h => h.1⟩

/-- What `PcCryptEncryptsEveryBlockOrRaises` and `PcDecryptDecryptsEveryBlockOrRaises` ask of a
state. -/
def fitsBuffer (m : Mode) (s : State) : Prop :=
  s.inLen.toNat ≠ 0 ∧ s.inLen.toNat % 8 = 0 ∧ (s.eng m).init = true ∧
  s.inBase.toNat + s.inLen.toNat ≤ s.memBytes ∧ s.outBase.toNat + s.inLen.toNat ≤ s.memBytes

/-- Of `PcCryptEncryptsEveryBlockOrRaises` (V22): in place; adjacent ranges that fill the memory, either way
round. -/
theorem witness_PcCryptEncryptsEveryBlockOrRaises :
    (fitsBuffer .enc (operands 0 32 0 0 0 0) ∧
      (operands 0 32 0 0 0 0).inBase = (operands 0 32 0 0 0 0).outBase) ∧
    (fitsBuffer .enc (operands 0 32 0 32 0 0) ∧
      (operands 0 32 0 32 0 0).inBase.toNat + (operands 0 32 0 32 0 0).inLen.toNat ≤
        (operands 0 32 0 32 0 0).outBase.toNat) ∧
    (fitsBuffer .enc (operands 32 32 0 0 0 0) ∧
      (operands 32 32 0 0 0 0).outBase.toNat + (operands 32 32 0 0 0 0).inLen.toNat ≤
        (operands 32 32 0 0 0 0).inBase.toNat) := by
  unfold fitsBuffer; decide +kernel

theorem witness_PcDecryptDecryptsEveryBlockOrRaises :
    (fitsBuffer .dec (operands 0 32 0 0 0 0) ∧
      (operands 0 32 0 0 0 0).inBase = (operands 0 32 0 0 0 0).outBase) ∧
    (fitsBuffer .dec (operands 0 32 0 32 0 0) ∧
      (operands 0 32 0 32 0 0).inBase.toNat + (operands 0 32 0 32 0 0).inLen.toNat ≤
        (operands 0 32 0 32 0 0).outBase.toNat) ∧
    (fitsBuffer .dec (operands 32 32 0 0 0 0) ∧
      (operands 32 32 0 0 0 0).outBase.toNat + (operands 32 32 0 0 0 0).inLen.toNat ≤
        (operands 32 32 0 0 0 0).inBase.toNat) := by
  unfold fitsBuffer; decide +kernel

/-- Of the errors of `PC_CRYPT` and `PC_DECRYPT` (V22), each clause at the edge of its range. -/
theorem witness_PcCrypt_and_PcDecrypt_errors :
    (operands 0 0 0 32 0 0).inLen.toNat = 0 ∧ (operands 0 9 0 32 0 0).inLen.toNat % 8 ≠ 0 ∧
    (blank.eng0.init = false ∧ blank.eng1.init = false ∧
      ({ blank with inLen := 8 } : State).inLen.toNat ≠ 0 ∧
      ({ blank with inLen := 8 } : State).inLen.toNat % 8 = 0) ∧
    ((operands 0 32 0 33 0 0).eng0.init = true ∧ (operands 0 32 0 33 0 0).eng1.init = true ∧
      (operands 0 32 0 33 0 0).inLen.toNat % 8 = 0 ∧
      (operands 0 32 0 33 0 0).memBytes <
        (operands 0 32 0 33 0 0).outBase.toNat + (operands 0 32 0 33 0 0).inLen.toNat) ∧
    (fitsBuffer .enc (operands 0 32 0 31 0 0) ∧ fitsBuffer .dec (operands 0 32 0 31 0 0) ∧
      (operands 0 32 0 31 0 0).inBase ≠ (operands 0 32 0 31 0 0).outBase ∧
      (operands 0 32 0 31 0 0).inBase.toNat <
        (operands 0 32 0 31 0 0).outBase.toNat + (operands 0 32 0 31 0 0).inLen.toNat ∧
      (operands 0 32 0 31 0 0).outBase.toNat <
        (operands 0 32 0 31 0 0).inBase.toNat + (operands 0 32 0 31 0 0).inLen.toNat) := by
  unfold fitsBuffer; decide +kernel

/-- A buffer of two blocks, the second written with the bytes 1 to 8. -/
def twoBlocks : State := { operands 0 16 0 16 0 0 with dmem := bytesAt 8 [1, 2, 3, 4, 5, 6, 7, 8] }

/-- A buffer of one block, written with the same bytes. -/
def oneBlock : State := { operands 0 8 0 56 0 0 with dmem := bytesAt 0 [1, 2, 3, 4, 5, 6, 7, 8] }

/-- Of `BlocksAreIndependent`: the last block of one buffer and the first of another, written with the
same bytes. -/
theorem witness_BlocksAreIndependent :
    ∃ s s' t t' : State, (s.eng .enc).tables = (s'.eng .enc).tables ∧
      exec .pcCrypt s = .next t ∧ t.err = 0 ∧ exec .pcCrypt s' = .next t' ∧ t'.err = 0 ∧
      1 < s.inLen.toNat / 8 ∧ 0 < s'.inLen.toNat / 8 ∧
      ∀ j, j < 8 → s.dmemByte (s.inBase.toNat + 8 * 1 + j) =
        s'.dmemByte (s'.inBase.toNat + 8 * 0 + j) := by
  obtain ⟨t, h, e⟩ := succeeds (o := exec .pcCrypt twoBlocks) (by decide +kernel)
  obtain ⟨t', h', e'⟩ := succeeds (o := exec .pcCrypt oneBlock) (by decide +kernel)
  exact ⟨twoBlocks, oneBlock, t, t', rfl, h, e, h', e', by decide +kernel, by decide +kernel,
    by decide +kernel⟩

/-- Of `BufferRoundTrip`: a buffer of two blocks from 0 to 16 and on to 32, in both orders. -/
theorem witness_BufferRoundTrip :
    (∃ s t u : State, ∃ d : Word, s.eng0.tables = s.eng1.tables ∧ exec .pcCrypt s = .next t ∧
      t.err = 0 ∧ exec .pcDecrypt { t with inBase := s.outBase, outBase := d } = .next u ∧
      u.err = 0 ∧ 15 < s.inLen.toNat) ∧
    (∃ s t u : State, ∃ d : Word, s.eng0.tables = s.eng1.tables ∧ exec .pcDecrypt s = .next t ∧
      t.err = 0 ∧ exec .pcCrypt { t with inBase := s.outBase, outBase := d } = .next u ∧
      u.err = 0 ∧ 15 < s.inLen.toNat) := by
  obtain ⟨t, h1, h⟩ := ends_next (o := exec .pcCrypt (operands 0 16 0 16 0 0))
    (p := fun t => t.err == 0 && ends (exec .pcDecrypt { t with inBase := 16, outBase := 32 })
      (fun u => u.err == 0)) (by decide +kernel)
  obtain ⟨t', h1', h'⟩ := ends_next (o := exec .pcDecrypt (operands 0 16 0 16 0 0))
    (p := fun t => t.err == 0 && ends (exec .pcCrypt { t with inBase := 16, outBase := 32 })
      (fun u => u.err == 0)) (by decide +kernel)
  simp only [Bool.and_eq_true, beq_iff_eq] at h h'
  obtain ⟨u, h2, he⟩ := succeeds h.2
  obtain ⟨u', h2', he'⟩ := succeeds h'.2
  exact ⟨⟨_, t, u, 32, rfl, h1, h.1, h2, he, by decide⟩,
    ⟨_, t', u', 32, rfl, h1', h'.1, h2', he', by decide⟩⟩

/-- The accumulator of a state, word by word, from `IN_BASE` on. -/
def accumulator (s : State) : Nat → Word
  | 0 => 0
  | j + 1 => accumulator s j ^^^ s.le32 (s.inBase.toNat + 4 * j)

/-- Of `PcChecksumComparesAndOverwritesOrRaises`: the shortest buffer, at the end of the memory, and one of 20
bytes. -/
theorem witness_PcChecksumComparesAndOverwritesOrRaises :
    (8 ≤ (operands 56 8 0 0 0 0).inLen.toNat ∧ (operands 56 8 0 0 0 0).inLen.toNat % 4 = 0 ∧
      (operands 56 8 0 0 0 0).inBase.toNat + (operands 56 8 0 0 0 0).inLen.toNat ≤
        (operands 56 8 0 0 0 0).memBytes) ∧
    (8 ≤ (operands 0 20 0 0 0 0).inLen.toNat ∧ (operands 0 20 0 0 0 0).inLen.toNat % 4 = 0 ∧
      (operands 0 20 0 0 0 0).inBase.toNat + (operands 0 20 0 0 0 0).inLen.toNat ≤
        (operands 0 20 0 0 0 0).memBytes) ∧
    ∀ s : State, accumulator s 0 = 0 ∧
      ∀ j, accumulator s (j + 1) = accumulator s j ^^^ s.le32 (s.inBase.toNat + 4 * j) :=
  ⟨by decide +kernel, by decide +kernel, fun _ => ⟨rfl, fun _ => rfl⟩⟩

/-- Of `PcChecksumComparesAndOverwritesOrRaises`, its errors (V23): n = 7, n = 9, and n = 8 at address 57. -/
theorem witness_PcChecksumComparesAndOverwritesOrRaises_errors :
    (operands 0 7 0 0 0 0).inLen.toNat < 8 ∧ (operands 0 9 0 0 0 0).inLen.toNat % 4 ≠ 0 ∧
    (8 ≤ (operands 57 8 0 0 0 0).inLen.toNat ∧ (operands 57 8 0 0 0 0).inLen.toNat % 4 = 0 ∧
      (operands 57 8 0 0 0 0).memBytes <
        (operands 57 8 0 0 0 0).inBase.toNat + (operands 57 8 0 0 0 0).inLen.toNat) := by
  decide +kernel

theorem witness_SecondChecksumReturnsOne :
    ∃ t, exec .pcChecksum (operands 0 16 0 0 0 0) = .next t ∧ t.err = 0 :=
  succeeds (by decide +kernel)

/-- Of `FlippedBitFailsTheChecksum` (V7): the last bit of the last payload byte. -/
theorem witness_FlippedBitFailsTheChecksum :
    (∃ t, exec .pcChecksum (operands 0 16 0 0 0 0) = .next t ∧ t.err = 0) ∧
    (operands 0 16 0 0 0 0).inBase.toNat ≤ 7 ∧
    7 < (operands 0 16 0 0 0 0).inBase.toNat + (operands 0 16 0 0 0 0).inLen.toNat - 8 ∧ 7 < 8 :=
  ⟨witness_SecondChecksumReturnsOne, by decide +kernel, by decide +kernel, by decide⟩

/-! ## Witnesses: the whole-machine rules -/

/-- Of `CommandsEndOnlyWithTheirCodes`, `ResultHoldsTheReturnValue`, `CommandsWriteOnlyWhatTheyList` and
`UnlistedRegistersAreIgnored`: every command has a state in which it succeeds. -/
theorem witness_every_command_succeeds :
    (∀ m, ∃ t, exec (.beInit m) (keyed 1) = .next t ∧ t.err = 0) ∧
    (∃ t, exec .beBlksz blank = .next t ∧ t.err = 0) ∧
    (∀ m, ∃ t, exec (.beProc m) (operands 0 16 8 32 16 8) = .next t ∧ t.err = 0) ∧
    (∃ t, exec .pcNew (keyed 1) = .next t ∧ t.err = 0) ∧
    (∃ t, exec .pcCrypt (operands 0 16 0 16 0 0) = .next t ∧ t.err = 0) ∧
    (∃ t, exec .pcDecrypt (operands 0 16 0 16 0 0) = .next t ∧ t.err = 0) ∧
    (∃ t, exec .pcChecksum (operands 0 16 0 0 0 0) = .next t ∧ t.err = 0) := by
  refine ⟨fun m => succeeds ?_, ⟨_, rfl, rfl⟩, fun m => succeeds ?_, succeeds ?_, succeeds ?_,
    succeeds ?_, succeeds ?_⟩
  · cases m <;> decide +kernel
  · cases m <;> decide +kernel
  all_goals decide +kernel

/-- Of `ResultHoldsTheReturnValue`: the two accesses to the register. -/
theorem witness_ResultHoldsTheReturnValue (v : Word) :
    (facing (.rd 0x08)).pending = [.rd 0x08] ∧ (facing (.wr 0x08 v)).pending = [.wr 0x08 v] :=
  ⟨rfl, rfl⟩

/-- Of `FirstCauseIsReported`: a word that encodes no command. -/
theorem witness_FirstCauseIsReported :
    (facing (.wr 0 0x12)).pending = [.wr 0 0x12] ∧ ∀ i, decode 0x12 ≠ .ok i :=
  ⟨rfl, fun i h => (by cases (show decode 0x12 = .error .reservedMode from rfl).symm.trans h)⟩

theorem witness_FailedCommandChangesOnlyStatus :
    ∃ t, exec .pcCrypt blank = .next t ∧ t.err ≠ 0 := ⟨_, rfl, by decide⟩

/-- Of `SuccessfulCommandsStayInsideDmem`: the last byte read and the last byte written. -/
theorem witness_SuccessfulCommandsStayInsideDmem :
    (∃ t, exec .pcCrypt (operands 0 16 0 16 0 0) = .next t ∧ t.err = 0) ∧
    readsDmem .pcCrypt (operands 0 16 0 16 0 0) 15 ∧
    writesDmem .pcCrypt (operands 0 16 0 16 0 0) 31 :=
  ⟨succeeds (by decide +kernel), by
    unfold readsDmem inRange; decide +kernel, by unfold writesDmem inRange; decide +kernel⟩

/-- Of `UnreadBytesHaveNoInfluence`: another byte at address 16, just past what is read. -/
theorem witness_UnreadBytesHaveNoInfluence :
    (∀ x, readsDmem .pcCrypt (operands 0 16 0 32 0 0) x →
      { operands 0 16 0 32 0 0 with dmem := [(16, 0xFF)] }.dmemByte x =
        (operands 0 16 0 32 0 0).dmemByte x) ∧
    ∃ t, exec .pcCrypt (operands 0 16 0 32 0 0) = .next t ∧ t.err = 0 := by
  refine ⟨fun x hx => ?_, succeeds (by decide +kernel)⟩
  have hne : ¬ x = 16 := by
    have h2 := hx.2
    change x < 0 + 16 at h2
    omega
  simp only [State.dmemByte, Memory.byteAt?, hne, if_false]
  rfl

/-- Of `KeymemBeyondKeylenIsIgnored`: another byte at index `KEYLEN`. -/
theorem witness_KeymemBeyondKeylenIsIgnored :
    (∀ x, x < (keyed 1).keylen.toNat →
      { keyed 1 with keymem := [(0, 0x61), (1, 0xFF)] }.keymemByte x = (keyed 1).keymemByte x) ∧
    ∃ t, exec .pcNew (keyed 1) = .next t ∧ t.err = 0 := by
  refine ⟨fun x hx => ?_, succeeds (by decide +kernel)⟩
  have h0 : x = 0 := by change x < 1 at hx; omega
  subst h0
  rfl

theorem witness_UninitialisedTablesAreNeverRead :
    ((keyed 1).eng .dec).init = false ∧ ∃ t, exec .pcNew (keyed 1) = .next t ∧ t.err = 0 :=
  ⟨rfl, succeeds (by decide +kernel)⟩

theorem witness_CryptorUsesOnlyItsSlot :
    (∃ t, exec .pcCrypt (operands 0 16 0 16 0 0) = .next t ∧ t.err = 0) ∧
    (∃ t, exec .pcDecrypt (operands 0 16 0 16 0 0) = .next t ∧ t.err = 0) ∧
    (∃ t, exec .pcChecksum (operands 0 16 0 0 0 0) = .next t ∧ t.err = 0) :=
  witness_every_command_succeeds.2.2.2.2

theorem witness_HostCannotReachTheTables :
    (facing (.rd 4)).pending = [.rd 4] ∧ Access.rd 4 ≠ .reset ∧ (∀ w, Access.rd 4 ≠ .wr 0 w) ∧
    ∃ t, step (facing (.rd 4)) = .next t :=
  ⟨rfl, by decide, fun _ h => (nomatch h), _, rfl⟩

/-- Of `InitialisedSlotChangesOnlyAtReset`: a step that runs `PC_CRYPT` on the slot. -/
theorem witness_InitialisedSlotChangesOnlyAtReset :
    ((operands 0 16 0 16 0 0).withPending [.wr 0 5]).eng0.init = true ∧
    (∀ rest, ((operands 0 16 0 16 0 0).withPending [.wr 0 5]).pending ≠ .reset :: rest) ∧
    ∃ t, step ((operands 0 16 0 16 0 0).withPending [.wr 0 5]) = .next t :=
  ⟨rfl, fun _ h => (by cases h), (succeeds (by decide +kernel)).imp fun _ h => h.1⟩

/-- Of `InitIsSetByInitialisingCommandsAlone`: a step that initialises, one that keeps, one that resets. -/
theorem witness_InitIsSetByInitialisingCommandsAlone :
    (∃ t, step ((keyed 1).withPending [.wr 0 4]) = .next t) ∧
    (∃ t, step ((operands 0 16 0 16 0 0).withPending [.wr 0 5]) = .next t) ∧
    ∃ t, step (facing .reset) = .next t :=
  ⟨(succeeds (by decide +kernel)).imp fun _ h => h.1,
    (succeeds (by decide +kernel)).imp fun _ h => h.1, _, rfl⟩

/-- A state that meets the invariant with a slot initialised, about to run `PC_NEW`. -/
def derivedSlot : State :=
  { blank with
    eng0 := { tables := derive (Key.mk 0x61 []), init := true }
    pending := [.wr 0 4] }

theorem witness_StepKeepsTheInvariant :
    derivedSlot.Inv ∧ derivedSlot.eng0.init = true ∧ ∃ t, step derivedSlot = .next t :=
  ⟨⟨rfl, rfl, rfl, rfl, by decide, by decide, by decide,
    fun _ => ⟨Key.mk 0x61 [], by decide, rfl⟩, fun h => (nomatch h)⟩, rfl,
    (ends_next (p := fun t => t.err == 6) (by decide +kernel)).imp fun _ h => h.1⟩

end Sys2Proof.Tests
end

section
/-! PROOFS. The engine slots through every operation of the machine: which operations leave a slot
alone, and which ones derive or reset it (R20, R29, R30 of spec/10_state.md). -/

namespace Sys2Proof.Machine

/-! ## A slot by its mode, through each update -/

@[simp] theorem State.eng_setEng_same (s : State) (m : Mode) (e : Engine) :
    (s.setEng m e).eng m = e := by cases m <;> rfl

@[simp] theorem State.eng_setEng_of_ne (s : State) {k m : Mode} (e : Engine) (h : k ≠ m) :
    (s.setEng k e).eng m = s.eng m := by
  cases k with
  | enc => cases m with
    | enc => exact absurd rfl h
    | dec => rfl
  | dec => cases m with
    | enc => rfl
    | dec => exact absurd rfl h

@[simp] theorem State.eng_raise (s : State) (c : ErrClass) (m : Mode) :
    (s.raise c).eng m = s.eng m := by cases m <;> rfl

@[simp] theorem State.eng_withPending (s : State) (l : List Access) (m : Mode) :
    (s.withPending l).eng m = s.eng m := by cases m <;> rfl

@[simp] theorem State.eng_reply (s : State) (r : Reply) (m : Mode) :
    (s.reply r).eng m = s.eng m := by cases m <;> rfl

@[simp] theorem State.eng_storeKeymem (s : State) (i : Nat) (b : Byte) (m : Mode) :
    (s.storeKeymem i b).eng m = s.eng m := by cases m <;> rfl

@[simp] theorem State.eng_storeDmem (s : State) (a : Nat) (b : Byte) (m : Mode) :
    (s.storeDmem a b).eng m = s.eng m := by cases m <;> rfl

@[simp] theorem State.eng_putLe32 (s : State) (a : Nat) (w : Word) (m : Mode) :
    (s.putLe32 a w).eng m = s.eng m := by cases m <;> rfl

@[simp] theorem State.eng_blocks (s : State) (k m : Mode) (ai ao n : Nat) :
    (s.blocks k ai ao n).eng m = s.eng m := by
  cases m <;> simp

@[simp] theorem State.eng_applyReset (s : State) (m : Mode) :
    s.applyReset.eng m = Engine.reset := by cases m <;> rfl

@[simp] theorem State.eng_initEngine_of_ne (s : State) {k m : Mode} (h : k ≠ m) :
    (s.initEngine k).eng m = s.eng m := State.eng_setEng_of_ne s _ h

/-- `PC_NEW` derives both slots from the same key (R100). -/
theorem State.eng_initEngine_both (s : State) (m : Mode) :
    ((s.initEngine .enc).initEngine .dec).eng m = { tables := derive s.key, init := true } := by
  cases m <;> simp

/-- A `WR` outside `CMD` reaches the operand registers and `KEYLEN` alone (R21, R24, R26). -/
theorem State.writeReg_operands_only (s : State) (off : Nat) (v : Word) :
    ∃ (k : BitVec 6) (ib il io ob ol oo : Word), s.writeReg off v =
      { s with keylen := k, inBase := ib, inLen := il, inOff := io,
               outBase := ob, outLen := ol, outOff := oo } := by
  unfold State.writeReg
  split <;> exact ⟨_, _, _, _, _, _, _, rfl⟩

@[simp] theorem State.eng_writeReg (s : State) (off : Nat) (v : Word) (m : Mode) :
    (s.writeReg off v).eng m = s.eng m := by
  obtain ⟨k, ib, il, io, ob, ol, oo, hw⟩ := s.writeReg_operands_only off v
  rw [hw]
  cases m <;> rfl

/-! ## What a command does to a slot -/

/-- The command `i`, run in `s` and ended in `t`, has derived slot `m`: it is an initialising
command of the slot, its tests passed, and the slot holds what `DERIVE` gives for the key (R20, R91,
R100). -/
structure DerivesSlot (i : Instr) (m : Mode) (s t : State) : Prop where
  initialising : derivesInto i m
  uninit : (s.eng m).init = false
  keylen_le : s.keylen.toNat ≤ 56
  success : t.err = 0
  slot : t.eng m = { tables := derive s.key, init := true }

theorem derivesInto_iff (i : Instr) (m : Mode) : derivesInto i m ↔ i = .beInit m ∨ i = .pcNew := by
  cases i <;> simp [derivesInto]

/-- Everything a command can do to a slot: leave it alone, or derive it. -/
theorem exec_slot {i : Instr} {s t : State} (m : Mode) (h : exec i s = .next t) :
    t.eng m = s.eng m ∨ DerivesSlot i m s t := by
  rcases exec_next h with ⟨c, rfl⟩ | ⟨k, rfl, hn, rfl⟩ | ⟨-, rfl⟩ | ⟨k, -, -, rfl⟩ |
    ⟨rfl, hn, rfl⟩ | ⟨k, -, -, rfl⟩ | ⟨-, -, rfl⟩
  · exact .inl (by simp)
  · obtain ⟨hu, -, hle⟩ := (beInitTests_pass k s).mp hn
    by_cases hk : k = m
    · subst hk
      exact .inr ⟨rfl, hu, hle, rfl, by simp⟩
    · exact .inl (by simp [hk])
  · exact .inl (by simp)
  · exact .inl (by simp)
  · obtain ⟨hu0, hu1, -, hle⟩ := (pcNewTests_pass s).mp hn
    have hu : (s.eng m).init = false := by cases m <;> assumption
    exact .inr ⟨trivial, hu, hle, rfl, by rw [State.eng_done, State.eng_initEngine_both]⟩
  · exact .inl (by simp)
  · exact .inl (by simp)

/-- An initialising command that succeeds leaves its slot initialised (R20). -/
theorem exec_initialises {i : Instr} {m : Mode} {s t : State} (h : exec i s = .next t)
    (hi : i = .beInit m ∨ i = .pcNew) (he : t.err = 0) : (t.eng m).init = true := by
  rcases hi with rfl | rfl
  · obtain ⟨-, rfl⟩ := finish_done h he
    simp
  · obtain ⟨-, rfl⟩ := finish_done h he
    rw [State.eng_done, State.eng_initEngine_both]

/-! ## What an access and a step do to a slot -/

/-- The only access but reset that can change a slot is a command that derives it. -/
theorem access_slot {a : Access} {s t : State} (m : Mode) (ha : a ≠ .reset)
    (h : access a s = .next t) :
    t.eng m = s.eng m ∨ ∃ w i, a = .wr 0 w ∧ decode w = .ok i ∧ DerivesSlot i m s t := by
  rcases access_next h with ⟨w, rfl, hw⟩ | ⟨off, v, -, -, rfl⟩ | ⟨r, rfl, -⟩ | ⟨i, b, -, -, rfl⟩ |
    ⟨i, b, -, -, rfl⟩ | ⟨x, b, -, -, rfl⟩ | ⟨hr, -⟩
  · rcases issue_next hw with ⟨i, hd, hx⟩ | ⟨e, -, rfl⟩
    · exact (exec_slot m hx).imp_right fun hs => ⟨w, i, rfl, hd, hs⟩
    · exact .inl (by simp)
  · exact .inl (by simp)
  · exact .inl (by simp)
  · exact .inl (by simp)
  · exact .inl rfl
  · exact .inl (by simp)
  · exact absurd hr ha

/-- Everything a step can do to a slot: reset it, leave it alone, or derive it. -/
theorem step_slot {s t : State} (m : Mode) (h : step s = .next t) :
    ((∃ rest, s.pending = .reset :: rest) ∧ t.eng m = Engine.reset) ∨
    ((∀ rest, s.pending ≠ .reset :: rest) ∧ (t.eng m = s.eng m ∨
      ∃ w rest i, s.pending = .wr 0 w :: rest ∧ decode w = .ok i ∧
        DerivesSlot i m (s.withPending rest) t)) := by
  rcases step_next h with ⟨hp, rfl⟩ | ⟨a, rest, hp, hx⟩
  · exact .inr ⟨by simp [hp], .inl rfl⟩
  · by_cases ha : a = .reset
    · subst ha
      cases hx
      exact .inl ⟨⟨rest, hp⟩, by simp⟩
    · refine .inr ⟨by simp [hp, ha], ?_⟩
      rcases access_slot m ha hx with hs | ⟨w, i, rfl, hd, hs⟩
      · exact .inl (by rw [hs, State.eng_withPending])
      · exact .inr ⟨w, rest, i, hp, hd, hs⟩

/-- A write of a command's word to `REG.CMD` is that command (R22, R54). -/
theorem step_command {s : State} {w : Word} {rest : List Access} {i : Instr}
    (hp : s.pending = .wr 0 w :: rest) (hd : decode w = .ok i) :
    step s = exec i (s.withPending rest) := by
  rw [step_access hp, access_wr_cmd, issue, hd]

/-! ## The slots' obligations -/

/-- Settles O56: of the three things a step can do to a slot, reset is excluded, and a derivation
needs an uninitialised slot. -/
theorem initialisedSlotChangesOnlyAtReset : Obligations.InitialisedSlotChangesOnlyAtReset := by
  intro s t m hinit hreset h
  rcases step_slot m h with ⟨⟨rest, hp⟩, -⟩ | ⟨-, hs | ⟨w, rest, i, -, -, hs⟩⟩
  · exact absurd hp (hreset rest)
  · exact hs
  · have hu : (s.eng m).init = false := hs.uninit
    simp [hinit] at hu

/-- Settles O57: the forward direction is the case split of `step_slot`; backwards, the same split
keeps the slot, and a successful initialising command sets it. -/
theorem initIsSetByInitialisingCommandsAlone :
    Obligations.InitIsSetByInitialisingCommandsAlone := by
  intro s t m h
  constructor
  · intro hinit
    rcases step_slot m h with ⟨-, hs⟩ | ⟨hr, hs | ⟨w, rest, i, hp, hd, hs⟩⟩
    · rw [hs] at hinit
      cases hinit
    · exact .inl ⟨hs ▸ hinit, hr⟩
    · exact .inr ⟨w, rest, i, hp, hd, (derivesInto_iff i m).mp hs.initialising, hs.success⟩
  · rintro (⟨hinit, hr⟩ | ⟨w, rest, i, hp, hd, hi, he⟩)
    · rwa [initialisedSlotChangesOnlyAtReset s t m hinit hr h]
    · rw [step_command hp hd] at h
      exact exec_initialises h hi he

end Sys2Proof.Machine
end

section
/-! PROOFS. The invariant of the machine (R11, R20, R24, R27, R112): one lemma per operation that a
step is made of, then the commands, the accesses and the step. -/

namespace Sys2Proof.Machine

/-! ## The operations keep the invariant -/

theorem State.Inv.withStatus {s : State} (h : s.Inv) {e : BitVec 4} (he : e.toNat ≤ 9) (v : Word) :
    (s.withStatus e v).Inv :=
  { h with err_listed := he }

theorem State.Inv.raise {s : State} (h : s.Inv) (c : ErrClass) : (s.raise c).Inv :=
  h.withStatus c.code_le 0

theorem State.Inv.done {s : State} (h : s.Inv) (v : Word) : (s.done v).Inv :=
  h.withStatus (e := 0) (by decide) v

theorem State.Inv.withPending {s : State} (h : s.Inv) (l : List Access) : (s.withPending l).Inv :=
  { h with }

theorem State.Inv.reply {s : State} (h : s.Inv) (r : Reply) : (s.reply r).Inv :=
  { h with }

theorem State.Inv.writeReg {s : State} (h : s.Inv) (off : Nat) (v : Word) :
    (s.writeReg off v).Inv := by
  obtain ⟨k, ib, il, io, ob, ol, oo, hw⟩ := s.writeReg_operands_only off v
  rw [hw]
  exact { h with }

theorem State.Inv.storeKeymem {s : State} (h : s.Inv) {i : Nat} (hi : i < 56) (b : Byte) :
    (s.storeKeymem i b).Inv :=
  { h with
    keymem_wf := Memory.wf_store _ _ _ h.keymem_wf
    keymem_below := Memory.below_store _ _ _ _ hi h.keymem_below }

theorem State.Inv.storeDmem {s : State} (h : s.Inv) {a : Nat} (ha : a < s.memBytes) (b : Byte) :
    (s.storeDmem a b).Inv :=
  { h with
    dmem_wf := Memory.wf_store _ _ _ h.dmem_wf
    dmem_below := Memory.below_store _ _ _ _ ha h.dmem_below }

theorem State.Inv.putLe32 {s : State} (h : s.Inv) {a : Nat} (ha : a + 4 ≤ s.memBytes) (w : Word) :
    (s.putLe32 a w).Inv :=
  { h with
    dmem_wf := Memory.wf_putLe32 _ _ _ h.dmem_wf
    dmem_below := Memory.below_putLe32 _ _ _ _ ha h.dmem_below }

theorem State.Inv.block {s : State} (h : s.Inv) (m : Mode) (ai : Nat) {ao : Nat}
    (ha : ao + 8 ≤ s.memBytes) : (s.block m ai ao).Inv :=
  { h with
    dmem_wf := State.wf_storeBlock _ _ _ h.dmem_wf
    dmem_below := State.below_storeBlock _ _ _ _ ha h.dmem_below }

theorem State.Inv.blocks (m : Mode) (n : Nat) : ∀ {s : State} (ai ao : Nat), s.Inv →
    ao + 8 * n ≤ s.memBytes → (s.blocks m ai ao n).Inv := by
  induction n with
  | zero => intro s ai ao h _; exact h
  | succ n ih =>
    intro s ai ao h hn
    exact ih _ _ (h.block m ai (by omega)) (by simp only [State.block_memBytes]; omega)

theorem State.Inv.setEng {s : State} (h : s.Inv) (m : Mode) {e : Engine} (he : e.Derived) :
    (s.setEng m e).Inv := by
  cases m with
  | enc => exact { h with eng0_derived := he }
  | dec => exact { h with eng1_derived := he }

/-- The key of an initialising command whose tests passed has at most 56 bytes (R24). -/
theorem State.key_length_le (s : State) (h : s.keylen.toNat ≤ 56) : s.key.bytes.length ≤ 56 := by
  rw [State.key, Key.bytes, List.length_cons, List.length_map, List.length_range]
  omega

theorem State.Inv.initEngine {s : State} (h : s.Inv) (m : Mode) (hk : s.keylen.toNat ≤ 56) :
    (s.initEngine m).Inv :=
  h.setEng m fun _ => ⟨s.key, s.key_length_le hk, rfl⟩

/-! ## Reset meets the invariant -/

/-- `MEM_BYTES` lies in R11's bounds whatever the open parameter is. -/
theorem memBytes_bounds : 16 ≤ Config.memBytes ∧ Config.memBytes ≤ 2 ^ 32 := by
  have := Config.memBytesAboveLeast.isLt
  unfold Config.memBytes
  omega

/-- Settles O58: no byte is listed, no slot is initialised, and the size is in its bounds. -/
theorem resetMeetsTheInvariant : Obligations.ResetMeetsTheInvariant where
  keymem_wf := rfl
  keymem_below := rfl
  dmem_wf := rfl
  dmem_below := rfl
  memBytes_least := memBytes_bounds.1
  memBytes_most := memBytes_bounds.2
  err_listed := Nat.zero_le 9
  eng0_derived := fun hi => nomatch hi
  eng1_derived := fun hi => nomatch hi

/-- Reset gives every piece of state its value of `State.reset` but the size, which stays. -/
theorem State.Inv.applyReset {s : State} (h : s.Inv) : s.applyReset.Inv :=
  { resetMeetsTheInvariant with
    memBytes_least := h.memBytes_least
    memBytes_most := h.memBytes_most }

/-! ## The commands, the accesses and the step keep the invariant -/

theorem State.Inv.exec {i : Instr} {s t : State} (h : s.Inv) (hx : exec i s = .next t) : t.Inv := by
  rcases exec_next hx with ⟨c, rfl⟩ | ⟨m, -, hn, rfl⟩ | ⟨-, rfl⟩ | ⟨m, -, hn, rfl⟩ | ⟨-, hn, rfl⟩ |
    ⟨m, -, hn, rfl⟩ | ⟨-, hn, rfl⟩
  · exact h.raise c
  · obtain ⟨-, -, hk⟩ := (beInitTests_pass m s).mp hn
    exact (h.initEngine m hk).done 0
  · exact h.done 8
  · obtain ⟨-, -, hout, -, htop, -⟩ := (beProcTests_pass m s).mp hn
    exact (h.block m _ (by simp only [State.procOut]; omega)).done 0
  · obtain ⟨-, -, -, hk⟩ := (pcNewTests_pass s).mp hn
    exact ((h.initEngine .enc hk).initEngine .dec hk).done 0
  · obtain ⟨-, h8, -, -, htop, -⟩ := (bufferTests_pass m s).mp hn
    exact (State.Inv.blocks m _ _ _ h (by omega)).done _
  · obtain ⟨h8, -, htop⟩ := (checksumTests_pass s).mp hn
    exact (h.putLe32 (by simp only [State.trailer]; omega) _).done _

theorem State.Inv.access {a : Access} {s t : State} (h : s.Inv) (hx : access a s = .next t) :
    t.Inv := by
  rcases access_next hx with ⟨w, -, hw⟩ | ⟨off, v, -, -, rfl⟩ | ⟨r, rfl, -⟩ | ⟨i, b, -, hi, rfl⟩ |
    ⟨i, b, -, -, rfl⟩ | ⟨x, b, -, hb, rfl⟩ | ⟨-, rfl⟩
  · rcases issue_next hw with ⟨i, -, hi⟩ | ⟨e, -, rfl⟩
    · exact h.exec hi
    · exact h.raise .badCmd
  · exact h.writeReg off v
  · exact h.reply r
  · exact h.storeKeymem hi b
  · exact h
  · exact h.storeDmem hb b
  · exact h.applyReset

/-- Settles O59: a step waits or carries out one access. -/
theorem stepKeepsTheInvariant : Obligations.StepKeepsTheInvariant := by
  intro s t h hstep
  rcases step_next hstep with ⟨-, rfl⟩ | ⟨a, rest, -, hx⟩
  · exact h
  · exact (h.withPending rest).access hx

end Sys2Proof.Machine
end

section
/-! PROOFS. The host's port (R21 to R27 and R34 of spec/10_state.md): what one access does, said of
a step, and the obligations about registers, memories and `REG.CMD`. -/

namespace Sys2Proof.Machine

/-! ## The offsets of the window -/

theorem inKeymemWindow_eq_false {off : Nat} (h : ¬ (0x40 ≤ off ∧ off < 0x78)) :
    inKeymemWindow off = false := decide_eq_false h

/-- An offset that R21's table does not list reads 0. -/
theorem State.readReg_unlisted (s : State) {off : Nat} (h : unlistedOffset off) :
    s.readReg off = 0 := by
  unfold unlistedOffset at h
  unfold State.readReg
  split
  case h_10 => rfl
  all_goals omega

/-- `STATUS`, `RESULT` and the offsets that R21's table does not list ignore a write. -/
theorem State.writeReg_ignored (s : State) {off : Nat} (v : Word)
    (h : off = 0x04 ∨ off = 0x08 ∨ unlistedOffset off) : s.writeReg off v = s := by
  unfold unlistedOffset at h
  unfold State.writeReg
  split
  case h_8 => rfl
  all_goals omega

/-! ## One step for each kind of access -/

theorem step_wr_reg {s : State} {off : Nat} {v : Word} {rest : List Access}
    (hp : s.pending = .wr off v :: rest) (h0 : off ≠ 0) (hk : ¬ (0x40 ≤ off ∧ off < 0x78)) :
    step s = .next ((s.withPending rest).writeReg off v) := by
  rw [step_access hp, access_wr_reg _ v h0 (inKeymemWindow_eq_false hk)]

theorem step_wr_ignored {s : State} {off : Nat} {v : Word} {rest : List Access}
    (hp : s.pending = .wr off v :: rest) (h : off = 0x04 ∨ off = 0x08 ∨ unlistedOffset off) :
    step s = .next (s.withPending rest) := by
  have hk : off ≠ 0 ∧ ¬ (0x40 ≤ off ∧ off < 0x78) := by
    unfold unlistedOffset at h
    omega
  rw [step_wr_reg hp hk.1 hk.2, State.writeReg_ignored _ v h]

theorem step_rd {s : State} {off : Nat} {rest : List Access} (hp : s.pending = .rd off :: rest)
    (hk : ¬ (0x40 ≤ off ∧ off < 0x78)) :
    step s = .next ((s.withPending rest).reply (.word (s.readReg off))) := by
  rw [step_access hp, access_rd _ (inKeymemWindow_eq_false hk)]
  rfl

/-! ## `REG.CMD` -/

/-- What the encoder writes decodes to the command (R55). -/
@[simp] theorem decode_encode (i : Instr) : decode (encode i) = .ok i := by
  rw [decode, encode, CommandFields.ofWord_toWord, Instr.decode_fields]

/-- A word survives being placed as a number of 32 bits. -/
theorem State.withFetchWord_toNat (s : State) (w : Word) :
    s.withFetchWord 32 w.toNat = s.placeCommand w := by
  rw [State.withFetchWord, Nat.mod_eq_of_lt w.isLt, BitVec.ofNat_toNat, BitVec.setWidth_eq]

/-- Settles O7: both forms are a write of the command's word to `REG.CMD`. -/
theorem stepRunsTheDecodedCommand : Obligations.StepRunsTheDecodedCommand := by
  constructor
  · intro s w rest i hp hd _
    exact step_command hp hd
  · intro s i
    rw [State.withFetchWord_toNat]
    exact step_command rfl (decode_encode i)

/-! ## The registers -/

/-- Settles O9: each offset is an arm of `writeReg`. -/
theorem registerWritesStore : Obligations.RegisterWritesStore := by
  intro s v rest
  refine ⟨fun hp => ?_, fun hp => ?_, fun hp => ?_, fun hp => ?_, fun hp => ?_, fun hp => ?_,
    fun hp => ?_⟩ <;> exact step_wr_reg hp (by decide) (by decide)

/-- Settles O10: these offsets fall through every arm of `writeReg`. -/
theorem otherRegisterWritesAreIgnored : Obligations.OtherRegisterWritesAreIgnored :=
  fun _ _ _ _ hp hoff => step_wr_ignored hp hoff

/-- `KEYLEN` reads with zeros above its six bits (R24). -/
theorem State.readReg_keylen_toNat (s : State) : (s.readReg 0x0C).toNat = s.keylen.toNat :=
  BitVec.toNat_setWidth_of_le (by decide)

/-- Settles O11: the word is `readReg` of the offset, and each clause is an arm of it. -/
theorem registerReadsReturn : Obligations.RegisterReadsReturn := by
  intro s off rest hp hk
  refine ⟨s.readReg off, step_rd hp hk, ?_, ?_, ?_, ?_, ?_, ?_, ?_, ?_, ?_, ?_,
    s.readReg_unlisted⟩ <;> rintro rfl
  case refine_4 => exact s.readReg_keylen_toNat
  all_goals rfl

/-- The bits of `STATUS` (R23). -/
theorem State.getLsbD_status (s : State) (i : Nat) :
    s.status.getLsbD i =
      if i < 4 then s.err.getLsbD i
      else if i = 8 then s.eng0.init else if i = 9 then s.eng1.init else false := by
  change (0#1 ++ 0#21 ++ BitVec.ofBool s.eng1.init ++ BitVec.ofBool s.eng0.init ++ 0#4 ++ s.err :
    BitVec (1 + 21 + 1 + 1 + 4 + 4)).getLsbD i = _
  simp only [BitVec.getLsbD_append, BitVec.getLsbD_zero, BitVec.getLsbD_ofBool]
  by_cases h4 : i < 4
  · simp [h4]
  · by_cases h8 : i < 8
    · simp [h4, show i - 4 < 4 by omega, show ¬ i = 8 by omega, show ¬ i = 9 by omega]
    · by_cases he : i = 8
      · simp [he]
      · by_cases hn : i = 9
        · simp [hn]
        · simp [h4, he, hn, show ¬ i - 4 < 4 by omega, show ¬ i - 4 - 4 < 1 by omega,
            show ¬ i - 4 - 4 - 1 < 1 by omega]

/-- Settles O12: bit by bit. -/
theorem statusFieldsReadAsStated : Obligations.StatusFieldsReadAsStated := by
  intro s
  refine ⟨?_, ?_, ?_, ?_⟩
  · apply BitVec.eq_of_getLsbD_eq
    intro i hi
    rw [BitVec.getLsbD_extractLsb', State.getLsbD_status]
    simp [hi]
  · exact s.getLsbD_status 8
  · exact s.getLsbD_status 9
  · intro i h4 h8 h9
    simp [State.getLsbD_status, Nat.not_lt.mpr h4, h8, h9]

/-- Settles O19: the table of R34 is the definition of the reset state. -/
theorem resetValuesAsListed : Obligations.ResetValuesAsListed :=
  ⟨rfl, rfl, rfl, rfl, rfl, rfl, rfl, rfl, rfl, rfl, rfl, rfl⟩

/-! ## The memories -/

/-- Settles O13: the write lists one byte of `KEYMEM`, and a read of any other byte passes it by. -/
theorem keymemWriteStoresOneByte : Obligations.KeymemWriteStoresOneByte := by
  intro s i b rest hp
  constructor
  · intro hi
    refine ⟨(s.withPending rest).storeKeymem i b, ?_, rfl, by simp, fun x hx => ?_⟩
    · rw [step_access hp, access_wrk _ b hi]
    · rw [State.keymemByte_storeKeymem, if_neg hx]
      rfl
  · intro hi
    rw [step_access hp, access_wrk_ignored _ b hi]
    rfl

/-- Settles O14: the write lists one byte of `DMEM`, and a read of any other byte passes it by. -/
theorem dmemWriteStoresOneByte : Obligations.DmemWriteStoresOneByte := by
  intro s a b rest hp
  constructor
  · intro ha
    refine ⟨(s.withPending rest).storeDmem a b, ?_, rfl, by simp, fun x hx => ?_⟩
    · exact (step_access hp).trans (access_wrm (s.withPending rest) b ha)
    · rw [State.dmemByte_storeDmem, if_neg hx]
      rfl
  · intro ha
    exact (step_access hp).trans (access_wrm_fault (s.withPending rest) b ha)

theorem access_rdk (s : State) {i : Nat} (h : i < 56) :
    access (.rdk i) s = .next (s.reply (.byte (s.keymemByte i))) := by
  simp [access, h]

/-- Settles O16: each read is one access below the end of its memory. -/
theorem memoryReadsReturnTheByte : Obligations.MemoryReadsReturnTheByte := by
  intro s n rest
  constructor
  · intro hp hn
    exact (step_access hp).trans (access_rdk (s.withPending rest) hn)
  · intro hp hn
    exact (step_access hp).trans (access_rdm (s.withPending rest) hn)

/-! ## `RESULT` -/

/-- The value that a command returns in `RESULT` when it succeeds (R25). -/
def returnValue (i : Instr) (s : State) : Word :=
  match i with
  | .beInit _ => 0
  | .beBlksz => 8
  | .beProc _ => 0
  | .pcNew => 0
  | .pcCrypt => s.inLen
  | .pcDecrypt => s.inLen
  | .pcChecksum => boolWord (s.le32 s.trailer == s.payloadChecksum)

/-- A command ends with an error and 0 in `RESULT`, or with success and its value there (R25, R113).
-/
theorem exec_result {i : Instr} {s t : State} (h : exec i s = .next t) :
    (t.err ≠ 0 ∧ t.result = 0) ∨ (t.err = 0 ∧ t.result = returnValue i s) := by
  rcases exec_next h with ⟨c, rfl⟩ | ⟨m, rfl, -, rfl⟩ | ⟨rfl, rfl⟩ | ⟨m, rfl, -, rfl⟩ |
    ⟨rfl, -, rfl⟩ | ⟨m, ⟨rfl, rfl⟩ | ⟨rfl, rfl⟩, -, rfl⟩ | ⟨rfl, -, rfl⟩
  case inl => exact .inl ⟨c.code_ne_zero, rfl⟩
  all_goals exact .inr ⟨rfl, rfl⟩

/-- Settles O45: the host's side is the port's at offset 08, the command's side `exec_result`. -/
theorem resultHoldsTheReturnValue : Obligations.ResultHoldsTheReturnValue := by
  constructor
  · intro s v rest
    exact ⟨fun hp => step_rd hp (by decide), fun hp => step_wr_ignored hp (.inr (.inl rfl))⟩
  · intro i s t h
    rcases exec_result h with ⟨he, hr⟩ | ⟨he, hr⟩
    · exact ⟨fun _ => hr, fun h0 => absurd h0 he⟩
    · refine ⟨fun h0 => absurd he h0, fun _ => ?_⟩
      rw [hr]
      cases i with
      | pcChecksum => simp [returnValue, boolWord]
      | _ => rfl

end Sys2Proof.Machine
end

section
/-! PROOFS. What has no influence (R20, R24, R30, R31 of spec/10_state.md): a command run on two
states that differ only in what it does not read ends in related states. -/

namespace Sys2Proof.Machine

/-! ## Two runs of one command, side by side -/

/-- If the same tests decide in both states, and both ends of the command, by any error class and by
its effects, are related, then the command ends in related states. -/
theorem finish_related {R : State → State → Prop} {l l' : List (Bool × ErrClass)}
    {s s' d d' t : State} (hl : l' = l) (hraise : ∀ c, R (s'.raise c) (s.raise c))
    (hdone : firstError l = none → R d' d) (h : finish l s d = .next t) :
    ∃ u, finish l' s' d' = .next u ∧ R u t := by
  subst hl
  rcases finish_next h with ⟨c, hc, rfl⟩ | ⟨hn, rfl⟩
  · exact ⟨s'.raise c, finish_of_some s' d' hc, hraise c⟩
  · exact ⟨d', finish_of_none s' d' hn, hdone hn⟩

/-- A row of blocks commutes with every update of the state that one block commutes with. -/
theorem State.blocks_commute {f : State → State} {m : Mode}
    (hf : ∀ s ai ao, (f s).block m ai ao = f (s.block m ai ao)) (n : Nat) :
    ∀ (s : State) (ai ao : Nat), (f s).blocks m ai ao n = f (s.blocks m ai ao n) := by
  induction n with
  | zero => intro s ai ao; rfl
  | succ n ih => intro s ai ao; rw [State.blocks, hf, ih, State.blocks]

/-! ## `ERR` and `RESULT` -/

theorem State.initEngine_withStatus (s : State) (e : BitVec 4) (r : Word) (m : Mode) :
    (s.withStatus e r).initEngine m = (s.initEngine m).withStatus e r := by cases m <;> rfl

theorem State.blocks_withStatus (s : State) (e : BitVec 4) (r : Word) (m : Mode) (ai ao n : Nat) :
    (s.withStatus e r).blocks m ai ao n = (s.blocks m ai ao n).withStatus e r :=
  State.blocks_commute (f := fun s => s.withStatus e r) (fun _ _ _ => rfl) n s ai ao

/-- The whole-buffer transform overwrites both registers at either end. -/
theorem transformBuffer_withStatus (m : Mode) (s : State) (e : BitVec 4) (r : Word) :
    transformBuffer m (s.withStatus e r) = transformBuffer m s := by
  change finish (bufferTests m s) s (((s.withStatus e r).blocks m s.inBase.toNat s.outBase.toNat
    (s.inLen.toNat / 8)).done s.inLen) = _
  rw [State.blocks_withStatus]
  rfl

/-- Settles O46: the tests and the effects of a command do not read the two registers, and both of
its ends, `raise` and `done`, overwrite them. -/
theorem commandsIgnoreTheLastOutcome : Obligations.CommandsIgnoreTheLastOutcome := by
  intro i s e r
  change exec i (s.withStatus e r) = exec i s
  cases i with
  | beInit m => rw [exec_beInit, State.initEngine_withStatus]; rfl
  | beBlksz => rfl
  | beProc m => rfl
  | pcNew => rfl
  | pcCrypt => exact transformBuffer_withStatus .enc s e r
  | pcDecrypt => exact transformBuffer_withStatus .dec s e r
  | pcChecksum => rfl

/-! ## `KEYMEM` at `KEYLEN` and above -/

/-- The state with another content of `KEYMEM`. -/
def State.withKeymem (s : State) (k : Memory) : State := { s with keymem := k }

theorem State.key_withKeymem {s : State} {k : Memory} (h0 : s.keylen.toNat ≠ 0)
    (hk : ∀ x, x < s.keylen.toNat → (s.withKeymem k).keymemByte x = s.keymemByte x) :
    (s.withKeymem k).key = s.key := by
  apply Key.ext_bytes
  rw [State.key_bytes s h0, State.key_bytes (s.withKeymem k) h0]
  exact List.map_congr_left fun x hx => hk x (List.mem_range.mp hx)

theorem State.initEngine_withKeymem {s : State} {k : Memory} (m : Mode)
    (hk : (s.withKeymem k).key = s.key) :
    (s.withKeymem k).initEngine m = (s.initEngine m).withKeymem k := by
  rw [State.initEngine, State.initEngine, hk]
  cases m <;> rfl

theorem State.initEngine_both_withKeymem {s : State} {k : Memory}
    (hk : (s.withKeymem k).key = s.key) :
    ((s.withKeymem k).initEngine .enc).initEngine .dec =
      ((s.initEngine .enc).initEngine .dec).withKeymem k := by
  have hk' : ((s.initEngine .enc).withKeymem k).key = (s.initEngine .enc).key := hk
  rw [State.initEngine_withKeymem .enc hk, State.initEngine_withKeymem .dec hk']

theorem State.blocks_withKeymem (s : State) (k : Memory) (m : Mode) (ai ao n : Nat) :
    (s.withKeymem k).blocks m ai ao n = (s.blocks m ai ao n).withKeymem k :=
  State.blocks_commute (f := fun s => s.withKeymem k) (fun _ _ _ => rfl) n s ai ao

/-- The same tests and commuting effects make a command commute with a change of `KEYMEM`. -/
theorem finish_withKeymem {l l' : List (Bool × ErrClass)} {s d d' t : State} {k : Memory}
    (hl : l' = l) (hdone : firstError l = none → d' = d.withKeymem k)
    (h : finish l s d = .next t) : finish l' (s.withKeymem k) d' = .next (t.withKeymem k) := by
  obtain ⟨u, hu, rfl⟩ := finish_related (R := fun u t => u = t.withKeymem k) (s' := s.withKeymem k)
    hl (fun _ => rfl) hdone h
  exact hu

theorem transformBuffer_withKeymem {m : Mode} {s t : State} {k : Memory}
    (h : transformBuffer m s = .next t) :
    transformBuffer m (s.withKeymem k) = .next (t.withKeymem k) := by
  refine finish_withKeymem rfl (fun _ => ?_) h
  rw [State.blocks_withKeymem]
  rfl

/-- Settles O52: the key is the same, and nothing else of a command reads `KEYMEM`. -/
theorem keymemBeyondKeylenIsIgnored : Obligations.KeymemBeyondKeylenIsIgnored := by
  intro i s t k hk h
  change exec i (s.withKeymem k) = .next (t.withKeymem k)
  cases i with
  | beInit m =>
    refine finish_withKeymem rfl (fun hn => ?_) h
    obtain ⟨-, h0, -⟩ := (beInitTests_pass m s).mp hn
    rw [State.initEngine_withKeymem m (State.key_withKeymem h0 hk)]
    rfl
  | beBlksz => cases h; rfl
  | beProc m => exact finish_withKeymem rfl (fun _ => rfl) h
  | pcNew =>
    refine finish_withKeymem rfl (fun hn => ?_) h
    obtain ⟨-, -, h0, -⟩ := (pcNewTests_pass s).mp hn
    rw [State.initEngine_both_withKeymem (State.key_withKeymem h0 hk)]
    rfl
  | pcCrypt => exact transformBuffer_withKeymem h
  | pcDecrypt => exact transformBuffer_withKeymem h
  | pcChecksum => exact finish_withKeymem rfl (fun _ => rfl) h

/-! ## The tables of an uninitialised slot -/

/-- The two states are the same but for the tables of slot `m`, and in these too once it is
initialised. -/
structure SameButUninitTables (m : Mode) (u t : State) : Prop where
  others : u = t.setEng m (u.eng m)
  init : (u.eng m).init = (t.eng m).init
  tables : (t.eng m).init = true → u.eng m = t.eng m

theorem State.setEng_setEng_same (s : State) (m : Mode) (e e' : Engine) :
    (s.setEng m e).setEng m e' = s.setEng m e' := by cases m <;> rfl

theorem State.setEng_eng (s : State) (m : Mode) : s.setEng m (s.eng m) = s := by cases m <;> rfl

theorem State.setEng_comm (s : State) {k m : Mode} (h : k ≠ m) (e e' : Engine) :
    (s.setEng m e).setEng k e' = (s.setEng k e').setEng m e := by
  cases m with
  | enc => cases k with
    | enc => exact absurd rfl h
    | dec => rfl
  | dec => cases k with
    | enc => rfl
    | dec => exact absurd rfl h

theorem State.setEng_raise (s : State) (m : Mode) (e : Engine) (c : ErrClass) :
    (s.setEng m e).raise c = (s.raise c).setEng m e := by cases m <;> rfl

theorem State.setEng_done (s : State) (m : Mode) (e : Engine) (v : Word) :
    (s.setEng m e).done v = (s.done v).setEng m e := by cases m <;> rfl

@[simp] theorem State.key_setEng (s : State) (m : Mode) (e : Engine) :
    (s.setEng m e).key = s.key := by cases m <;> rfl

/-- Deriving a slot overwrites all of it. -/
theorem State.initEngine_setEng_same (s : State) (m : Mode) (e : Engine) :
    (s.setEng m e).initEngine m = s.initEngine m := by
  rw [State.initEngine, State.key_setEng, State.setEng_setEng_same, State.initEngine]

theorem State.initEngine_setEng_of_ne (s : State) {k m : Mode} (h : k ≠ m) (e : Engine) :
    (s.setEng m e).initEngine k = (s.initEngine k).setEng m e := by
  rw [State.initEngine, State.key_setEng, State.setEng_comm s h, State.initEngine]

/-- Deriving both slots overwrites either. -/
theorem State.initEngine_both_setEng (s : State) (m : Mode) (e : Engine) :
    ((s.setEng m e).initEngine .enc).initEngine .dec = (s.initEngine .enc).initEngine .dec := by
  cases m with
  | enc => rw [State.initEngine_setEng_same]
  | dec => rw [State.initEngine_setEng_of_ne s (by decide), State.initEngine_setEng_same]

/-- A block of one slot commutes with a change of the other. -/
theorem State.block_setEng (s : State) {k m : Mode} (h : k ≠ m) (e : Engine) (ai ao : Nat) :
    (s.setEng m e).block k ai ao = (s.block k ai ao).setEng m e := by
  rw [State.block, State.eng_setEng_of_ne s e h.symm, State.block]
  cases m <;> rfl

theorem State.blocks_setEng (s : State) {k m : Mode} (h : k ≠ m) (e : Engine) (ai ao n : Nat) :
    (s.setEng m e).blocks k ai ao n = (s.blocks k ai ao n).setEng m e :=
  State.blocks_commute (f := fun s => s.setEng m e) (fun s => s.block_setEng h e) n s ai ao

theorem State.putLe32_setEng (s : State) (m : Mode) (e : Engine) (a : Nat) (w : Word) :
    (s.setEng m e).putLe32 a w = (s.putLe32 a w).setEng m e := by cases m <;> rfl

theorem State.le32_setEng (s : State) (m : Mode) (e : Engine) (a : Nat) :
    (s.setEng m e).le32 a = s.le32 a := by cases m <;> rfl

theorem State.payloadChecksum_setEng (s : State) (m : Mode) (e : Engine) :
    (s.setEng m e).payloadChecksum = s.payloadChecksum := by cases m <;> rfl

theorem State.trailer_setEng (s : State) (m : Mode) (e : Engine) :
    (s.setEng m e).trailer = s.trailer := by cases m <;> rfl

theorem State.procIn_setEng (s : State) (m : Mode) (e : Engine) :
    (s.setEng m e).procIn = s.procIn := by cases m <;> rfl

theorem State.procOut_setEng (s : State) (m : Mode) (e : Engine) :
    (s.setEng m e).procOut = s.procOut := by cases m <;> rfl

theorem checksumTests_setEng (s : State) (m : Mode) (e : Engine) :
    checksumTests (s.setEng m e) = checksumTests s := by cases m <;> rfl

namespace SameButUninitTables

theorem refl (m : Mode) (t : State) : SameButUninitTables m t t :=
  ⟨(t.setEng_eng m).symm, rfl, fun _ => rfl⟩

/-- Other tables in a slot that is not initialised make no other difference. -/
theorem of_setEng {m : Mode} {t : State} (h : (t.eng m).init = false) (c : CipherState) :
    SameButUninitTables m (t.setEng m { tables := c, init := false }) t :=
  ⟨by rw [State.eng_setEng_same], by rw [State.eng_setEng_same, h],
    fun ht => absurd (ht.symm.trans h) (by decide)⟩

end SameButUninitTables

section UninitialisedSlot
/-! The tests of a command see of the slots their `INIT` alone. -/

variable {s : State} {m : Mode} (c : CipherState) (hu : (s.eng m).init = false)
include hu

theorem State.init_setEng (k : Mode) :
    ((s.setEng m { tables := c, init := false }).eng k).init = (s.eng k).init := by
  by_cases hk : m = k
  · subst hk
    rw [State.eng_setEng_same, hu]
  · rw [State.eng_setEng_of_ne s _ hk]

theorem beInitTests_setEng (k : Mode) :
    beInitTests k (s.setEng m { tables := c, init := false }) = beInitTests k s := by
  simp [beInitTests, State.init_setEng c hu]

theorem beProcTests_setEng (k : Mode) :
    beProcTests k (s.setEng m { tables := c, init := false }) = beProcTests k s := by
  simp [beProcTests, State.init_setEng c hu, State.outside, State.procIn_setEng,
    State.procOut_setEng]

theorem bufferTests_setEng (k : Mode) :
    bufferTests k (s.setEng m { tables := c, init := false }) = bufferTests k s := by
  simp [bufferTests, State.init_setEng c hu, State.outside]

theorem pcNewTests_setEng :
    pcNewTests (s.setEng m { tables := c, init := false }) = pcNewTests s := by
  have h0 := State.init_setEng c hu .enc
  have h1 := State.init_setEng c hu .dec
  simp only [State.eng_enc, State.eng_dec] at h0 h1
  simp [pcNewTests, h0, h1]

end UninitialisedSlot

/-- With the same tests, and effects related by `SameButUninitTables`, the ends are related by it. -/
theorem finish_setEng {l l' : List (Bool × ErrClass)} {s d d' t : State} {m : Mode}
    {c : CipherState} (hu : (s.eng m).init = false) (hl : l' = l)
    (hdone : firstError l = none → SameButUninitTables m d' d) (h : finish l s d = .next t) :
    ∃ u, finish l' (s.setEng m { tables := c, init := false }) d' = .next u ∧
      SameButUninitTables m u t := by
  refine finish_related hl (fun e => ?_) hdone h
  rw [State.setEng_raise]
  exact .of_setEng (by rw [State.eng_raise, hu]) c

/-- The whole-buffer transform runs on an initialised slot, so on none whose tables may differ. -/
theorem transformBuffer_setEng {k m : Mode} {s t : State} (c : CipherState)
    (hu : (s.eng m).init = false) (h : transformBuffer k s = .next t) :
    ∃ u, transformBuffer k (s.setEng m { tables := c, init := false }) = .next u ∧
      SameButUninitTables m u t := by
  refine finish_setEng hu (bufferTests_setEng c hu k) (fun hn => ?_) h
  obtain ⟨-, -, hinit, -⟩ := (bufferTests_pass k s).mp hn
  have hk : k ≠ m := by
    rintro rfl
    simp [hu] at hinit
  simp only [State.setEng_inBase, State.setEng_outBase, State.setEng_inLen]
  rw [State.blocks_setEng s hk, State.setEng_done]
  exact .of_setEng (by simp [hu]) c

/-- A command commutes with a change of the tables of an uninitialised slot, or it overwrites them:
its tests see of the slots their `INIT` alone, and a block is run on an initialised slot. -/
theorem exec_setEng {i : Instr} {m : Mode} {s t : State} (c : CipherState)
    (hu : (s.eng m).init = false) (h : exec i s = .next t) :
    ∃ u, exec i (s.setEng m { tables := c, init := false }) = .next u ∧
      SameButUninitTables m u t := by
  cases i with
  | beInit k =>
    refine finish_setEng hu (beInitTests_setEng c hu k) (fun _ => ?_) h
    by_cases hk : k = m
    · subst hk
      rw [State.initEngine_setEng_same]
      exact .refl k _
    · rw [State.initEngine_setEng_of_ne s hk, State.setEng_done]
      exact .of_setEng (by simp [hk, hu]) c
  | beBlksz =>
    cases h
    refine ⟨_, rfl, ?_⟩
    rw [State.setEng_done]
    exact .of_setEng (by rw [State.eng_done, hu]) c
  | beProc k =>
    refine finish_setEng hu (beProcTests_setEng c hu k) (fun hn => ?_) h
    obtain ⟨hinit, -⟩ := (beProcTests_pass k s).mp hn
    have hk : k ≠ m := by
      rintro rfl
      simp [hu] at hinit
    rw [State.procIn_setEng, State.procOut_setEng, State.block_setEng s hk, State.setEng_done]
    exact .of_setEng (by simp [hu]) c
  | pcNew =>
    refine finish_setEng hu (pcNewTests_setEng c hu) (fun _ => ?_) h
    rw [State.initEngine_both_setEng]
    exact .refl m _
  | pcCrypt => exact transformBuffer_setEng c hu h
  | pcDecrypt => exact transformBuffer_setEng c hu h
  | pcChecksum =>
    refine finish_setEng hu (checksumTests_setEng s m _) (fun _ => ?_) h
    rw [State.trailer_setEng, State.payloadChecksum_setEng, State.le32_setEng, State.putLe32_setEng,
      State.setEng_done]
    exact .of_setEng (by simp [hu]) c

/-- Settles O53: `exec_setEng` with its relation taken apart. -/
theorem uninitialisedTablesAreNeverRead : Obligations.UninitialisedTablesAreNeverRead := by
  intro i m s t c hu h
  obtain ⟨u, hx, ho, hi, ht⟩ := exec_setEng c hu h
  exact ⟨u, hx, ho, hi, ht⟩

/-! ## The host and the tables -/

/-- The state with other tables in both slots, their `INIT` kept. -/
def State.withTables (s : State) (c0 c1 : CipherState) : State :=
  { s with eng0 := { s.eng0 with tables := c0 }, eng1 := { s.eng1 with tables := c1 } }

theorem State.writeReg_withTables (s : State) (c0 c1 : CipherState) (off : Nat) (v : Word) :
    (s.withTables c0 c1).writeReg off v = (s.writeReg off v).withTables c0 c1 := by
  unfold State.writeReg
  split <;> rfl

theorem State.readReg_withTables (s : State) (c0 c1 : CipherState) (off : Nat) :
    (s.withTables c0 c1).readReg off = s.readReg off := rfl

/-- No access but reset and a write to `REG.CMD` reads the tables (R30). -/
theorem access_withTables {a : Access} {s t : State} (c0 c1 : CipherState) (hr : a ≠ .reset)
    (hc : ∀ w, a ≠ .wr 0 w) (h : access a s = .next t) :
    access a (s.withTables c0 c1) = .next (t.withTables c0 c1) := by
  cases a with
  | wr off v =>
    have h0 : off ≠ 0 := by
      rintro rfl
      exact hc v rfl
    by_cases hk : inKeymemWindow off = true
    · simp [access, h0, hk] at h
    · rw [Bool.not_eq_true] at hk
      rw [access_wr_reg s v h0 hk] at h
      cases h
      rw [access_wr_reg _ v h0 hk, State.writeReg_withTables]
  | rd off =>
    by_cases hk : inKeymemWindow off = true
    · simp [access, hk] at h
    · rw [Bool.not_eq_true] at hk
      rw [access_rd s hk] at h
      cases h
      rw [access_rd _ hk, State.readReg_withTables]
      rfl
  | wrk i b =>
    simp only [access] at h ⊢
    split at h
    case isTrue hi => cases h; rw [if_pos hi]; rfl
    case isFalse hi => cases h; rw [if_neg hi]
  | rdk i => cases h; rfl
  | wrm x b =>
    simp only [access] at h
    split at h
    case isTrue hx => cases h; exact access_wrm (s.withTables c0 c1) b hx
    case isFalse => cases h
  | rdm x =>
    simp only [access] at h
    split at h
    case isTrue hx => cases h; exact access_rdm (s.withTables c0 c1) hx
    case isFalse => cases h
  | reset => exact absurd rfl hr

/-- Settles O55: such an access changes no slot and commutes with a change of the tables. -/
theorem hostCannotReachTheTables : Obligations.HostCannotReachTheTables := by
  intro s t a rest c0 c1 hp hr hc h
  rw [step_access hp] at h
  have heng (m : Mode) : t.eng m = s.eng m := by
    rcases access_slot m hr h with hs | ⟨w, i, rfl, -⟩
    · exact hs.trans (State.eng_withPending ..)
    · exact absurd rfl (hc w)
  have h0 : t.eng0 = s.eng0 := heng .enc
  have h1 : t.eng1 = s.eng1 := heng .dec
  refine ⟨h0, h1, ?_⟩
  change step (s.withTables c0 c1) = _
  rw [step_access (s := s.withTables c0 c1) hp, ← h0, ← h1]
  exact access_withTables c0 c1 hr hc h

end Sys2Proof.Machine
end

section
/-! PROOFS. The memory rules of spec/20_memory.md: a host read has no side effect (R46), words have
fixed byte orders (R39 to R41), and a command that succeeds stays inside DMEM (R37). -/

namespace Sys2Proof.Machine

/-! ## A host read -/

/-- A read that completes appends one reply, and which one does not depend on the replies so far. -/
theorem access_read {a : Access} {s t : State}
    (ha : (∃ off, a = .rd off) ∨ (∃ i, a = .rdk i) ∨ ∃ x, a = .rdm x)
    (h : access a s = .next t) :
    ∃ r, ∀ l, access a { s with replies := l } = .next { s with replies := l ++ [r] } := by
  rcases ha with ⟨off, rfl⟩ | ⟨i, rfl⟩ | ⟨x, rfl⟩
  · cases hk : inKeymemWindow off with
    | true => simp [access, hk] at h
    | false => exact ⟨.word (s.readReg off), fun l => access_rd { s with replies := l } hk⟩
  · exact ⟨.byte (if i < 56 then s.keymemByte i else 0), fun _ => rfl⟩
  · by_cases hx : x < s.memBytes
    · exact ⟨.byte (s.dmemByte x), fun l => access_rdm { s with replies := l } hx⟩
    · simp [access, hx] at h

/-- Settles O15: both steps are `access_read`, the second on the replies that the first left. -/
theorem readsHaveNoSideEffect : Obligations.ReadsHaveNoSideEffect := by
  intro s t a rest hp ha h
  rw [step_access hp] at h
  obtain ⟨r, hr⟩ := access_read ha h
  have ht : t = (s.withPending rest).reply r := by
    injection h.symm.trans (hr s.replies)
  refine ⟨r, ht, ?_⟩
  subst ht
  have hagain := hr (s.replies ++ [r])
  rw [List.append_assoc] at hagain
  exact hagain

/-! ## Words as numbers -/

/-- A byte put behind a number is its next digit to the base 256. -/
theorem toNat_append_byte {n : Nat} (v : BitVec n) (b : Byte) :
    (v ++ b).toNat = v.toNat * 2 ^ 8 + b.toNat := by
  rw [BitVec.toNat_append, ← Nat.shiftLeft_add_eq_or_of_lt b.isLt, Nat.shiftLeft_eq]

/-- A word is the sum of its bytes by weight, its first byte the most significant (R12). -/
theorem toNat_wordOfBytes (b3 b2 b1 b0 : Byte) :
    (wordOfBytes b3 b2 b1 b0).toNat =
      b3.toNat * 2 ^ 24 + b2.toNat * 2 ^ 16 + b1.toNat * 2 ^ 8 + b0.toNat := by
  change (b3 ++ b2 ++ b1 ++ b0 : BitVec (8 + 8 + 8 + 8)).toNat = _
  rw [toNat_append_byte, toNat_append_byte, toNat_append_byte]
  omega

/-- Byte `i` of a word is its digit `i` to the base 256 (R12). -/
theorem toNat_byteOfWord (w : Word) (i : Nat) :
    (byteOfWord w i).toNat = w.toNat / 2 ^ (8 * i) % 256 := by
  rw [byteOfWord, BitVec.extractLsb'_toNat, Nat.shiftRight_eq_div_pow]

/-- Settles O20: each clause is the number of the bytes that the operation reads or writes. -/
theorem byteOrdersAreFixed : Obligations.ByteOrdersAreFixed := by
  refine ⟨fun s a => toNat_wordOfBytes .., fun s a w x => ?_, fun _ _ _ _ => toNat_wordOfBytes ..⟩
  rw [State.dmemByte_putLe32, apply_ite BitVec.toNat, toNat_byteOfWord]

/-! ## The windows of a command that succeeds -/

/-- A range whose end lies at or below `n` holds only addresses below `n`. -/
theorem lt_of_inRange {a k n x : Nat} (hx : inRange a k x) (h : a + k ≤ n) : x < n :=
  Nat.lt_of_lt_of_le hx.2 h

/-- The ranges of a whole-buffer transform that succeeds lie inside DMEM (R37, R102, R104). -/
theorem transformBuffer_inside {m : Mode} {s t : State} {x : Nat}
    (h : transformBuffer m s = .next t) (he : t.err = 0)
    (hx : inRange s.inBase.toNat s.inLen.toNat x ∨ inRange s.outBase.toNat s.inLen.toNat x) :
    x < s.memBytes := by
  obtain ⟨hn, -⟩ := finish_done h he
  obtain ⟨-, -, -, hin, hout, -⟩ := (bufferTests_pass m s).mp hn
  exact hx.elim (lt_of_inRange · hin) (lt_of_inRange · hout)

/-- Settles O50: success means that the tests of the command passed, and these bound its windows. -/
theorem successfulCommandsStayInsideDmem : Obligations.SuccessfulCommandsStayInsideDmem := by
  intro i s t h he x hx
  cases i with
  | beInit m => exact hx.elim False.elim False.elim
  | beBlksz => exact hx.elim False.elim False.elim
  | beProc m =>
    obtain ⟨hn, -⟩ := finish_done h he
    obtain ⟨-, hin, hout, hinTop, houtTop, -⟩ := (beProcTests_pass m s).mp hn
    have hi : s.procIn + 8 ≤ s.memBytes := by unfold State.procIn; omega
    have ho : s.procOut + 8 ≤ s.memBytes := by unfold State.procOut; omega
    exact hx.elim (lt_of_inRange · hi) (lt_of_inRange · ho)
  | pcNew => exact hx.elim False.elim False.elim
  | pcCrypt => exact transformBuffer_inside h he hx
  | pcDecrypt => exact transformBuffer_inside h he hx
  | pcChecksum =>
    obtain ⟨hn, -⟩ := finish_done h he
    obtain ⟨h8, -, htop⟩ := (checksumTests_pass s).mp hn
    have hpayload : s.inBase.toNat + (s.inLen.toNat - 4) ≤ s.memBytes := by omega
    have htrailer : s.trailer + 4 ≤ s.memBytes := by unfold State.trailer; omega
    exact hx.elim (lt_of_inRange · hpayload) (lt_of_inRange · htrailer)

end Sys2Proof.Machine
end

section
/-! PROOFS. Command words (R53 to R56 of spec/30_encoding.md): a word decodes to a command exactly when
its fields are the command's own, and is refused exactly when its fields fail one of R54's checks. -/

namespace Sys2Proof

/-! ## A word and its fields -/

/-- A word has these fields exactly when it is the word written from them. -/
theorem CommandFields.ofWord_eq_iff (w : Word) (f : CommandFields) :
    CommandFields.ofWord w = f ↔ w = f.toWord :=
  ⟨fun h => h ▸ (CommandFields.toWord_ofWord w).symm, fun h => h ▸ CommandFields.ofWord_toWord f⟩

theorem CommandFields.toWord_inj {f g : CommandFields} : f.toWord = g.toWord ↔ f = g := by
  rw [← CommandFields.ofWord_eq_iff, CommandFields.ofWord_toWord]

/-- A word decodes to a command exactly when its fields are the command's own (R54, R55). -/
theorem decode_eq_ok_iff_fields (w : Word) (i : Instr) :
    decode w = .ok i ↔ CommandFields.ofWord w = i.fields :=
  CommandFields.decode_eq_ok_iff _ i

/-- Settles O1: the fields that decode to the command are its own, and a word is its fields. -/
theorem wordDecodesExactlyItsCommand : Obligations.WordDecodesExactlyItsCommand :=
  fun w i => (decode_eq_ok_iff_fields w i).trans (CommandFields.ofWord_eq_iff w i.fields)

/-- Settles O6: each word is decoded. -/
theorem wordsWrittenOutDecode : Obligations.WordsWrittenOutDecode :=
  ⟨rfl, rfl, rfl, rfl, rfl, rfl, rfl, rfl⟩

/-- Settles O3: a word that decodes is the encoding of one of seven commands, two of them in two
modes. -/
theorem legalCommandWordsAreNine : Obligations.LegalCommandWordsAreNine := by
  refine ⟨fun w => ⟨?_, ?_⟩, rfl, rfl, rfl, rfl, rfl, rfl, rfl, rfl, rfl⟩
  · rintro ⟨i, h⟩
    obtain rfl := (wordDecodesExactlyItsCommand w i).mp h
    cases i with
    | beInit m => cases m <;> decide
    | beProc m => cases m <;> decide
    | _ => decide
  · rintro (rfl | rfl | rfl | rfl | rfl | rfl | rfl | rfl | rfl) <;> exact ⟨_, rfl⟩

/-! ## The masks of the opcode map -/

/-- The mask of the rows that take no mode keeps the whole word. -/
theorem and_fullMask (w : Word) : w &&& 0xFFFFFFFF = w := BitVec.and_allOnes

/-- The mask of the rows that take a mode clears `M` and keeps the other fields. -/
theorem and_modeMask (w : Word) :
    w &&& 0xFFFFFFEF = { CommandFields.ofWord w with m := 0 }.toWord := by
  have hmask : (0xFFFFFFEF : Word) = ~~~ BitVec.twoPow 32 4 := by decide
  apply BitVec.eq_of_getLsbD_eq
  intro i hi
  rw [CommandFields.getLsbD_toWord, hmask, BitVec.getLsbD_and, BitVec.getLsbD_not,
    BitVec.getLsbD_twoPow]
  simp only [CommandFields.ofWord, BitVec.getLsbD_extractLsb']
  by_cases h0 : i < 4
  · simp [h0, hi, show 4 ≠ i by omega]
  · by_cases h1 : i < 5
    · simp [show i = 4 by omega]
    · simp [h0, h1, hi, show 4 ≠ i by omega, show i - 5 < 27 by omega,
        show 5 + (i - 5) = i by omega]

/-- The mode that bit 4 of a word names has the word's `M` as its bit (R53). -/
theorem toBit_bit4 (w : Word) :
    (if w.getLsbD 4 then Mode.dec else Mode.enc).toBit = (CommandFields.ofWord w).m := by
  apply BitVec.eq_of_getLsbD_eq
  intro i hi
  obtain rfl : i = 0 := by omega
  by_cases hb : w[4] = true <;> simp [CommandFields.ofWord, Mode.toBit, hb]

/-- A row that takes a mode is selected by its match exactly when the word has the row's fields, with
whatever `M` it has. -/
theorem modeRow_iff {w : Word} {p : BitVec 4} {i : Instr}
    (hi : i.fields = { zero := 0, m := (CommandFields.ofWord w).m, op := p }) :
    w &&& 0xFFFFFFEF = ({ zero := 0, m := 0, op := p } : CommandFields).toWord ↔
      decode w = .ok i := by
  rw [and_modeMask, CommandFields.toWord_inj, decode_eq_ok_iff_fields, hi]
  cases CommandFields.ofWord w
  simp

/-- A row that takes no mode is selected by the command's own word alone. -/
theorem fullRow_iff (w : Word) (i : Instr) : w &&& 0xFFFFFFFF = encode i ↔ decode w = .ok i := by
  rw [and_fullMask, wordDecodesExactlyItsCommand]

/-- Settles O2: row by row, `modeRow_iff` for the two rows that take a mode, else `fullRow_iff`. -/
theorem opcodeMapMatchesItsMasks : Obligations.OpcodeMapMatchesItsMasks := fun w =>
  ⟨modeRow_iff (p := 1) (by rw [Instr.fields, toBit_bit4]), fullRow_iff w .beBlksz,
    modeRow_iff (p := 3) (by rw [Instr.fields, toBit_bit4]), fullRow_iff w .pcNew,
    fullRow_iff w .pcCrypt, fullRow_iff w .pcDecrypt, fullRow_iff w .pcChecksum⟩

/-! ## R54's checks -/

theorem CommandFields.wellFormed_iff (f : CommandFields) :
    f.wellFormed = true ↔
      f.zero.toNat = 0 ∧ (1 ≤ f.op.toNat ∧ f.op.toNat ≤ 7) ∧
      (f.m.toNat = 0 ∨ f.op.toNat = 1 ∨ f.op.toNat = 3) := by
  simp [CommandFields.wellFormed, CommandFields.zeroOk, CommandFields.opOk, CommandFields.modeOk,
    and_assoc, or_assoc, ← BitVec.toNat_inj]

@[simp] theorem Mode.toBit_ofBit (b : BitVec 1) : (Mode.ofBit b).toBit = b := by
  rcases BitVec.eq_zero_or_eq_one b with rfl | rfl <;> rfl

/-- Fields that pass the checks are those of a command: `OP` names it, and where it takes no mode, `M`
is 0. -/
theorem exists_fields_of_wellFormed {f : CommandFields} (h : f.wellFormed = true) :
    ∃ i : Instr, f = i.fields := by
  obtain ⟨z, m, p⟩ := f
  obtain ⟨hz, ⟨h1, h7⟩, hm⟩ := (CommandFields.wellFormed_iff _).mp h
  simp only at hz h1 h7 hm
  obtain rfl : z = 0 := by bv_omega
  have hm0 : p ≠ 1 → p ≠ 3 → m = 0 := by bv_omega
  have hp : p = 1 ∨ p = 2 ∨ p = 3 ∨ p = 4 ∨ p = 5 ∨ p = 6 ∨ p = 7 := by bv_omega
  rcases hp with rfl | rfl | rfl | rfl | rfl | rfl | rfl
  · exact ⟨.beInit (Mode.ofBit m), by rw [Instr.fields, Mode.toBit_ofBit]⟩
  · exact ⟨.beBlksz, by rw [hm0 (by decide) (by decide)]; rfl⟩
  · exact ⟨.beProc (Mode.ofBit m), by rw [Instr.fields, Mode.toBit_ofBit]⟩
  · exact ⟨.pcNew, by rw [hm0 (by decide) (by decide)]; rfl⟩
  · exact ⟨.pcCrypt, by rw [hm0 (by decide) (by decide)]; rfl⟩
  · exact ⟨.pcDecrypt, by rw [hm0 (by decide) (by decide)]; rfl⟩
  · exact ⟨.pcChecksum, by rw [hm0 (by decide) (by decide)]; rfl⟩

/-- The decoder accepts a word exactly when its fields pass the checks (R54). -/
theorem exists_decode_iff_wellFormed (w : Word) :
    (∃ i, decode w = .ok i) ↔ (CommandFields.ofWord w).wellFormed = true := by
  simp only [decode_eq_ok_iff_fields]
  constructor
  · rintro ⟨i, hi⟩
    rw [hi]
    exact i.wellFormed_eq_true
  · exact exists_fields_of_wellFormed

/-- Settles O5: the decoder accepts what passes the checks, and every command is well-formed. -/
theorem decoderAcceptsWellFormedFields : Obligations.DecoderAcceptsWellFormedFields := by
  intro w
  simp only [Instr.wellFormed_eq_true, and_true]
  exact (exists_decode_iff_wellFormed w).symm

/-! ## Reserved words -/

theorem toNat_zero_ofWord (w : Word) : (CommandFields.ofWord w).zero.toNat = w.toNat / 32 := by
  have := w.isLt
  rw [CommandFields.ofWord, BitVec.extractLsb'_toNat, Nat.shiftRight_eq_div_pow]
  omega

theorem toNat_m_ofWord (w : Word) : (CommandFields.ofWord w).m.toNat = w.toNat / 16 % 2 := by
  rw [CommandFields.ofWord, BitVec.extractLsb'_toNat, Nat.shiftRight_eq_div_pow]

theorem toNat_op_ofWord (w : Word) : (CommandFields.ofWord w).op.toNat = w.toNat % 16 := by
  rw [CommandFields.ofWord, BitVec.extractLsb'_toNat, Nat.shiftRight_zero]

/-- R54's checks of a word as arithmetic on its number. -/
theorem wellFormed_ofWord_iff (w : Word) :
    (CommandFields.ofWord w).wellFormed = true ↔
      w.toNat / 32 = 0 ∧ (1 ≤ w.toNat % 16 ∧ w.toNat % 16 ≤ 7) ∧
      (w.toNat / 16 % 2 = 0 ∨ w.toNat % 16 = 1 ∨ w.toNat % 16 = 3) := by
  rw [CommandFields.wellFormed_iff, toNat_zero_ofWord, toNat_m_ofWord, toNat_op_ofWord]

/-- A word is refused exactly when it decodes to no command. -/
theorem exists_decode_error_iff (w : Word) :
    (∃ e, decode w = .error e) ↔ ¬ ∃ i, decode w = .ok i := by
  cases decode w <;> simp

end Sys2Proof

namespace Sys2Proof.Machine

/-- A write of a refused word to `REG.CMD` ends with `E_BADCMD` (R54, R56). -/
theorem step_reserved {s : State} {w : Word} {rest : List Access} {e : DecodeError}
    (hp : s.pending = .wr 0 w :: rest) (hd : decode w = .error e) :
    step s = .next ((s.withPending rest).raise .badCmd) := by
  rw [step_access hp, access_wr_cmd, issue, hd]

/-- Settles O4: the grounds of refusal are the failures of the three checks, and the step raises
`E_BADCMD`. -/
theorem reservedWordEndsWithBadCommand : Obligations.ReservedWordEndsWithBadCommand := by
  refine ⟨fun w => ?_, fun s w rest e hp hd => step_reserved hp hd⟩
  rw [exists_decode_error_iff, exists_decode_iff_wellFormed, wellFormed_ofWord_iff]
  omega

end Sys2Proof.Machine
end

section
/-! PROOFS. The operand table (R57 of spec/30_encoding.md): a command ignores the registers that the
table does not list for it, writes no more than the table lists, and reads no other byte of DMEM. -/

namespace Sys2Proof.Machine

/-! ## Registers that a command ignores -/

/-- The state with other values in the six operand registers. -/
def State.withOperands (s : State) (ib il io ob ol oo : Word) : State :=
  { s with inBase := ib, inLen := il, inOff := io, outBase := ob, outLen := ol, outOff := oo }

/-- The state with another `KEYLEN`. -/
def State.withKeylen (s : State) (k : BitVec 6) : State := { s with keylen := k }

/-- The state with other values in the registers that the whole-buffer transforms ignore. -/
def State.withBufferIgnored (s : State) (k : BitVec 6) (io ol oo : Word) : State :=
  { s with keylen := k, inOff := io, outLen := ol, outOff := oo }

/-- The state with other values in the registers that `PC_CHECKSUM` ignores. -/
def State.withChecksumIgnored (s : State) (k : BitVec 6) (io ob ol oo : Word) : State :=
  { s with keylen := k, inOff := io, outBase := ob, outLen := ol, outOff := oo }

/-- The same tests and commuting effects make a command commute with an update of the state. -/
theorem finish_commute {f : State → State} {l l' : List (Bool × ErrClass)} {s d d' t : State}
    (hl : l' = l) (hraise : ∀ c, (f s).raise c = f (s.raise c)) (hdone : d' = f d)
    (h : finish l s d = .next t) : finish l' (f s) d' = .next (f t) := by
  obtain ⟨u, hu, rfl⟩ :=
    finish_related (R := fun u t => u = f t) (s' := f s) hl hraise (fun _ => hdone) h
  exact hu

theorem State.initEngine_withOperands (s : State) (m : Mode) (ib il io ob ol oo : Word) :
    (s.withOperands ib il io ob ol oo).initEngine m =
      (s.initEngine m).withOperands ib il io ob ol oo := by cases m <;> rfl

theorem exec_beInit_withOperands {m : Mode} {s t : State} (ib il io ob ol oo : Word)
    (h : exec (.beInit m) s = .next t) :
    exec (.beInit m) (s.withOperands ib il io ob ol oo) =
      .next (t.withOperands ib il io ob ol oo) := by
  refine finish_commute (f := (State.withOperands · ib il io ob ol oo)) ?_ (fun _ => rfl) ?_ h
  · cases m <;> rfl
  · rw [State.initEngine_withOperands]
    rfl

theorem transformBuffer_withBufferIgnored {m : Mode} {s t : State} (k : BitVec 6) (io ol oo : Word)
    (h : transformBuffer m s = .next t) :
    transformBuffer m (s.withBufferIgnored k io ol oo) = .next (t.withBufferIgnored k io ol oo) := by
  refine finish_commute (f := (State.withBufferIgnored · k io ol oo)) ?_ (fun _ => rfl) ?_ h
  · cases m <;> rfl
  · rw [State.blocks_commute (f := (State.withBufferIgnored · k io ol oo))]
    · rfl
    · intro s ai ao
      cases m <;> rfl

/-- Settles O48: the tests and the effects of each command read none of the registers that the table
does not list for it, so the command commutes with a change of these. -/
theorem unlistedRegistersAreIgnored : Obligations.UnlistedRegistersAreIgnored := by
  intro s t m k ib il io ob ol oo
  refine ⟨exec_beInit_withOperands ib il io ob ol oo, fun h => ?_, fun h => ?_, ?_, fun h => ?_⟩
  · exact finish_commute (f := (State.withOperands · ib il io ob ol oo)) rfl (fun _ => rfl) rfl h
  · refine finish_commute (f := (State.withKeylen · k)) ?_ (fun _ => rfl) ?_ h <;> cases m <;> rfl
  · rintro i (rfl | rfl) h
    · exact transformBuffer_withBufferIgnored k io ol oo h
    · exact transformBuffer_withBufferIgnored k io ol oo h
  · exact finish_commute (f := (State.withChecksumIgnored · k io ob ol oo)) rfl (fun _ => rfl) rfl h

/-! ## What a command leaves alone -/

/-- The state with another content of DMEM. -/
def State.withDmem (s : State) (d : Memory) : State := { s with dmem := d }

/-- A row of blocks changes DMEM alone. -/
theorem State.blocks_eq_withDmem (m : Mode) (n : Nat) : ∀ (s : State) (ai ao : Nat),
    s.blocks m ai ao n = s.withDmem (s.blocks m ai ao n).dmem := by
  induction n with
  | zero => intro s ai ao; rfl
  | succ n ih => intro s ai ao; exact ih (s.block m ai ao) (ai + 8) (ao + 8)

namespace SameHostSide

theorem refl (s : State) : SameHostSide s s :=
  ⟨rfl, rfl, rfl, rfl, rfl, rfl, rfl, rfl, rfl, rfl, rfl, rfl⟩

theorem withStatus {s t : State} (h : SameHostSide s t) (e : BitVec 4) (v : Word) :
    SameHostSide s (t.withStatus e v) := { h with }

theorem withDmem {s t : State} (h : SameHostSide s t) (d : Memory) :
    SameHostSide s (t.withDmem d) := { h with }

theorem setEng {s t : State} (h : SameHostSide s t) (m : Mode) (e : Engine) :
    SameHostSide s (t.setEng m e) := by
  cases m <;> exact { h with }

end SameHostSide

/-- A command reaches no more than `ERR`, `RESULT`, the slots and DMEM. -/
theorem exec_sameHostSide {i : Instr} {s t : State} (h : exec i s = .next t) : SameHostSide s t := by
  have hs := SameHostSide.refl s
  rcases exec_next h with ⟨c, rfl⟩ | ⟨m, -, -, rfl⟩ | ⟨-, rfl⟩ | ⟨m, -, -, rfl⟩ | ⟨-, -, rfl⟩ |
    ⟨m, -, -, rfl⟩ | ⟨-, -, rfl⟩
  · exact hs.withStatus _ _
  · exact (hs.setEng m _).withStatus _ _
  · exact hs.withStatus _ _
  · exact (hs.withDmem _).withStatus _ _
  · exact ((hs.setEng .enc _).setEng .dec _).withStatus _ _
  · rw [State.blocks_eq_withDmem]
    exact (hs.withDmem _).withStatus _ _
  · exact (hs.withDmem _).withStatus _ _

theorem not_inRange {a n x : Nat} : ¬ inRange a n x ↔ x < a ∨ a + n ≤ x := by
  unfold inRange
  omega

/-- A whole-buffer transform that passed its tests leaves the bytes outside its output range alone. -/
theorem State.dmemByte_buffer_outside {m : Mode} {s : State} {x : Nat}
    (hn : firstError (bufferTests m s) = none)
    (hx : ¬ inRange s.outBase.toNat s.inLen.toNat x) :
    (s.blocks m s.inBase.toNat s.outBase.toNat (s.inLen.toNat / 8)).dmemByte x = s.dmemByte x := by
  obtain ⟨-, h8, -⟩ := (bufferTests_pass m s).mp hn
  have hout := not_inRange.mp hx
  exact State.dmemByte_blocks_outside _ _ _ _ _ _ (by omega)

/-- A command leaves the bytes outside its output window alone. -/
theorem exec_dmemByte_outside {i : Instr} {s t : State} {x : Nat} (h : exec i s = .next t)
    (hx : ¬ writesDmem i s x) : t.dmemByte x = s.dmemByte x := by
  rcases exec_next h with ⟨c, rfl⟩ | ⟨m, -, -, rfl⟩ | ⟨-, rfl⟩ | ⟨m, rfl, -, rfl⟩ | ⟨-, -, rfl⟩ |
    ⟨m, ⟨rfl, rfl⟩ | ⟨rfl, rfl⟩, hn, rfl⟩ | ⟨rfl, -, rfl⟩
  · rfl
  · exact State.dmemByte_congr (by simp) (by simp) x
  · rfl
  · exact State.dmemByte_block_outside _ _ _ _ _ (not_inRange.mp hx)
  · exact State.dmemByte_congr (by simp) (by simp) x
  · exact State.dmemByte_buffer_outside hn hx
  · exact State.dmemByte_buffer_outside hn hx
  · exact State.dmemByte_putLe32_outside _ _ _ _ (not_inRange.mp hx)

/-- Settles O49: the host's side, the slots and DMEM, each by its own lemma. -/
theorem commandsWriteOnlyWhatTheyList : Obligations.CommandsWriteOnlyWhatTheyList := fun _ _ _ h =>
  ⟨exec_sameHostSide h,
    fun m hm => (exec_slot m h).resolve_right fun hs => hm hs.initialising,
    fun _ hx => exec_dmemByte_outside h hx⟩

/-! ## Bytes that a command does not read -/

/-- The two ends of a command with output window `W` are the same but for DMEM, and on success they
have the same bytes in the window. -/
structure SameButDmem (W : Nat → Prop) (u t : State) : Prop where
  others : u = t.withDmem u.dmem
  output : t.err = 0 → ∀ x, W x → u.dmemByte x = t.dmemByte x

/-- With the same tests, and effects related by `SameButDmem`, the ends are related by it. -/
theorem finish_withDmem {W : Nat → Prop} {l l' : List (Bool × ErrClass)} {s d d' t : State}
    {mem : Memory} (hl : l' = l) (hdone : firstError l = none → SameButDmem W d' d)
    (h : finish l s d = .next t) :
    ∃ u, finish l' (s.withDmem mem) d' = .next u ∧ SameButDmem W u t :=
  finish_related hl (fun c => ⟨rfl, fun he => absurd he c.code_ne_zero⟩) hdone h

section SameInput

variable {s : State} {d : Memory} {a n : Nat}
  (hd : ∀ x, inRange a n x → (s.withDmem d).dmemByte x = s.dmemByte x)
include hd

theorem State.le32_withDmem {b : Nat} (ha : a ≤ b) (hn : b + 4 ≤ a + n) :
    (s.withDmem d).le32 b = s.le32 b :=
  State.le32_congr fun _ _ => hd _ ⟨by omega, by omega⟩

theorem State.loadBlock_withDmem {b : Nat} (ha : a ≤ b) (hn : b + 8 ≤ a + n) :
    (s.withDmem d).loadBlock b = s.loadBlock b :=
  State.loadBlock_congr fun _ _ => hd _ ⟨by omega, by omega⟩

theorem State.checksum_withDmem {k : Nat} (hk : 4 * k ≤ n) :
    (s.withDmem d).checksum a k = s.checksum a k :=
  State.checksum_congr k fun _ _ => State.le32_withDmem hd (by omega) (by omega)

/-- From the same input block, `BLOCK` leaves the same bytes in its output window (R94). -/
theorem State.dmemByte_block_withDmem (m : Mode) {ai ao x : Nat} (ha : a ≤ ai)
    (hn : ai + 8 ≤ a + n) (hx : inRange ao 8 x) :
    ((s.withDmem d).block m ai ao).dmemByte x = (s.block m ai ao).dmemByte x := by
  have hblock : ((s.withDmem d).block m ai ao).loadBlock ao = (s.block m ai ao).loadBlock ao := by
    rw [State.loadBlock_block_same, State.loadBlock_block_same, State.loadBlock_withDmem hd ha hn]
    cases m <;> rfl
  obtain ⟨h1, h2⟩ := hx
  obtain ⟨j, rfl⟩ := Nat.exists_eq_add_of_le h1
  exact State.dmemByte_of_loadBlock hblock j (by omega)

/-- From the same input, a row of blocks leaves the same bytes in its output range, whether the two
ranges are the same or disjoint (R102, R103). -/
theorem State.dmemByte_blocks_withDmem (m : Mode) {ao k x : Nat}
    (hdisj : a = ao ∨ a + 8 * k ≤ ao ∨ ao + 8 * k ≤ a) (hn : 8 * k ≤ n)
    (hx : inRange ao (8 * k) x) :
    ((s.withDmem d).blocks m a ao k).dmemByte x = (s.blocks m a ao k).dmemByte x := by
  obtain ⟨h1, h2⟩ := hx
  obtain ⟨y, rfl⟩ := Nat.exists_eq_add_of_le h1
  have hq : y / 8 < k := by omega
  have hblock : ((s.withDmem d).blocks m a ao k).loadBlock (ao + 8 * (y / 8)) =
      (s.blocks m a ao k).loadBlock (ao + 8 * (y / 8)) := by
    rw [State.loadBlock_blocks _ _ _ _ _ _ hdisj hq, State.loadBlock_blocks _ _ _ _ _ _ hdisj hq,
      State.loadBlock_withDmem hd (by omega) (by omega)]
    cases m <;> rfl
  have hbyte := State.dmemByte_of_loadBlock hblock (y % 8) (Nat.mod_lt _ (by decide))
  rwa [Nat.add_assoc, Nat.div_add_mod] at hbyte

end SameInput

theorem transformBuffer_withDmem {m : Mode} {s t : State} {d : Memory}
    (hd : ∀ x, inRange s.inBase.toNat s.inLen.toNat x →
      (s.withDmem d).dmemByte x = s.dmemByte x)
    (h : transformBuffer m s = .next t) :
    ∃ u, transformBuffer m (s.withDmem d) = .next u ∧
      SameButDmem (inRange s.outBase.toNat s.inLen.toNat) u t := by
  refine finish_withDmem ?_ (fun hn => ⟨?_, fun _ x hx => ?_⟩) h
  · cases m <;> rfl
  · rw [State.blocks_eq_withDmem, State.blocks_eq_withDmem m _ s]
    rfl
  · obtain ⟨-, h8, -, -, -, hover⟩ := (bufferTests_pass m s).mp hn
    have hlen : 8 * (s.inLen.toNat / 8) = s.inLen.toNat := by omega
    exact State.dmemByte_blocks_withDmem (k := s.inLen.toNat / 8) (ao := s.outBase.toNat) hd m
      (by omega) (Nat.le_of_eq hlen) (by rwa [hlen])

theorem execPcChecksum_withDmem {s t : State} {d : Memory}
    (hd : ∀ x, inRange s.inBase.toNat (s.inLen.toNat - 4) x →
      (s.withDmem d).dmemByte x = s.dmemByte x)
    (h : execPcChecksum s = .next t) :
    ∃ u, execPcChecksum (s.withDmem d) = .next u ∧ SameButDmem (inRange s.trailer 4) u t := by
  refine finish_withDmem rfl (fun hn => ?_) h
  obtain ⟨h8, -⟩ := (checksumTests_pass s).mp hn
  have hsum : (s.withDmem d).payloadChecksum = s.payloadChecksum :=
    State.checksum_withDmem (k := (s.inLen.toNat - 8) / 4) hd (by omega)
  have hword : (s.withDmem d).le32 s.trailer = s.le32 s.trailer :=
    State.le32_withDmem hd (by unfold State.trailer; omega) (by unfold State.trailer; omega)
  have htrailer : (s.withDmem d).trailer = s.trailer := rfl
  rw [htrailer, hsum, hword]
  refine ⟨rfl, fun _ x hx => ?_⟩
  unfold inRange at hx
  simp only [State.dmemByte_done, State.dmemByte_putLe32, if_pos hx]

/-- On memories that read the same in its input window, a command ends the same but for the bytes
outside its output window. -/
theorem exec_withDmem {i : Instr} {s t : State} {d : Memory}
    (hd : ∀ x, readsDmem i s x → (s.withDmem d).dmemByte x = s.dmemByte x)
    (h : exec i s = .next t) :
    ∃ u, exec i (s.withDmem d) = .next u ∧ SameButDmem (writesDmem i s) u t := by
  cases i with
  | beInit m =>
    refine finish_withDmem ?_ (fun _ => ⟨?_, fun _ _ hx => hx.elim⟩) h <;> cases m <;> rfl
  | beBlksz => cases h; exact ⟨_, rfl, rfl, fun _ _ hx => hx.elim⟩
  | beProc m =>
    refine finish_withDmem ?_ (fun _ => ⟨rfl, fun _ x hx => ?_⟩) h
    · cases m <;> rfl
    · exact State.dmemByte_block_withDmem hd m (Nat.le_refl _) (Nat.le_refl _) hx
  | pcNew => exact finish_withDmem rfl (fun _ => ⟨rfl, fun _ _ hx => hx.elim⟩) h
  | pcCrypt => exact transformBuffer_withDmem hd h
  | pcDecrypt => exact transformBuffer_withDmem hd h
  | pcChecksum => exact execPcChecksum_withDmem hd h

/-- Settles O51: `exec_withDmem` with its relation taken apart. -/
theorem unreadBytesHaveNoInfluence : Obligations.UnreadBytesHaveNoInfluence := by
  intro i s t d hd h
  obtain ⟨u, hu, ho, hw⟩ := exec_withDmem hd h
  exact ⟨u, hu, ho, hw⟩

end Sys2Proof.Machine
end

section
/-! PROOFS. The integrity checks of the constant tables (R69 of spec/40_constant_tables.md): each
table is evaluated once, and the row of all 1042 words follows from the five rows of the tables. -/

namespace Sys2Proof.Machine

/-- One row of R69's table: the words are `n` in number, with this XOR and this sum modulo 2^32. -/
def HasChecks (l : List Word) (n : Nat) (xor sum : Word) : Prop :=
  l.length = n ∧ l.foldl (· ^^^ ·) 0 = xor ∧ l.foldl (· + ·) 0 = sum

/-- Folding two lists end to end combines the two results, whenever the operation is associative and
the start is neutral. -/
theorem foldl_append_eq_op {α : Type} (op : α → α → α) (e : α) [Std.Associative op]
    [Std.LawfulRightIdentity op e] (l l' : List α) :
    (l ++ l').foldl op e = op (l.foldl op e) (l'.foldl op e) := by
  rw [List.foldl_append, ← List.foldl_assoc (op := op),
    Std.LawfulRightIdentity.right_id (op := op)]

/-- Two tables end to end: the counts and the sums add up, and the XORs combine by XOR. -/
theorem HasChecks.append {l l' : List Word} {n n' : Nat} {x x' s s' : Word}
    (h : HasChecks l n x s) (h' : HasChecks l' n' x' s') :
    HasChecks (l ++ l') (n + n') (x ^^^ x') (s + s') := by
  obtain ⟨hn, hx, hs⟩ := h
  obtain ⟨hn', hx', hs'⟩ := h'
  refine ⟨by rw [List.length_append, hn, hn'], ?_, ?_⟩
  · rw [foldl_append_eq_op, hx, hx']
  · rw [foldl_append_eq_op, hs, hs']

theorem pInit_checks : HasChecks Config.pInit.toList 18 0xB73AD7EA 0x8E4D14CC := by
  unfold HasChecks; decide +kernel

theorem s0Init_checks : HasChecks Config.s0Init.toList 256 0x4EB4DB7F 0x4B745115 := by
  unfold HasChecks; decide +kernel

theorem s1Init_checks : HasChecks Config.s1Init.toList 256 0xC727E122 0x72FF37B2 := by
  unfold HasChecks; decide +kernel

theorem s2Init_checks : HasChecks Config.s2Init.toList 256 0x462A5D01 0x2AC02B91 := by
  unfold HasChecks; decide +kernel

theorem s3Init_checks : HasChecks Config.s3Init.toList 256 0x1779E2BC 0xF43E3A88 := by
  unfold HasChecks; decide +kernel

/-- The words of `S_INIT` are those of its four tables, in order. -/
theorem sInit_words : Config.sInit.toList.flatMap Vector.toList =
    Config.s0Init.toList ++ (Config.s1Init.toList ++
      (Config.s2Init.toList ++ Config.s3Init.toList)) := by
  simp [Config.sInit]

/-- R69's last row, from the rows of the five tables. -/
theorem allInit_checks :
    HasChecks (Config.pInit.toList ++ Config.sInit.toList.flatMap Vector.toList) 1042
      0x6FFA520A 0x6BBF03AC :=
  sInit_words ▸ pInit_checks.append
    (s0Init_checks.append (s1Init_checks.append (s2Init_checks.append s3Init_checks)))

/-- Settles O29: the six rows of R69's table, and the spot values read off. -/
theorem constantTablesPassTheirIntegrityChecks :
    Obligations.ConstantTablesPassTheirIntegrityChecks :=
  ⟨pInit_checks.2, s0Init_checks.2, s1Init_checks.2, s2Init_checks.2, s3Init_checks.2,
    allInit_checks, rfl, rfl, rfl, rfl, rfl, rfl, rfl, rfl⟩

end Sys2Proof.Machine
end

section
/-! PROOFS. The key schedule (R73 to R75, R77 of spec/41_key_schedule.md): step 2 in closed form, and
step 3 through the chain of its 521 transforms: after `m` of them the first `2m` words are final and
the others are still those of step 2. -/

namespace Sys2Proof.Machine

/-! ## Step 2 -/

/-- The word that step 2 folds into subkey `i` (R73). -/
def Key.cyclicWord (key : Key) (i : Nat) : Word :=
  be32 (key.cyclic (4 * i)) (key.cyclic (4 * i + 1)) (key.cyclic (4 * i + 2)) (key.cyclic (4 * i + 3))

/-- Step 2 after its first `m` subkeys: the subkey array and the key pointer. -/
def Key.foldedUpTo (key : Key) (m : Nat) : Vector Word 18 × Fin key.bytes.length :=
  ((List.finRange 18).take m).foldl key.foldInto (Config.pInit, ⟨0, Nat.succ_pos _⟩)

theorem Key.foldedUpTo_succ (key : Key) {m : Nat} (hm : m < 18) :
    key.foldedUpTo (m + 1) = key.foldInto (key.foldedUpTo m) ⟨m, hm⟩ := by
  simp only [Key.foldedUpTo, List.take_add_one, List.length_finRange, hm, getElem?_pos,
    List.getElem_finRange, Fin.cast_mk, Option.toList_some, List.foldl_append, List.foldl_cons,
    List.foldl_nil]

theorem Key.foldedSubkeys_eq (key : Key) : key.foldedSubkeys = (key.foldedUpTo 18).1 := rfl

/-- A read of a table by `get` after one place is set. -/
theorem get_set_eq_ite {α : Type} {n : Nat} (v : Vector α n) (m : Nat) (hm : m < n) (a : α)
    (i : Fin n) : (v.set m a hm).get i = if i.val = m then a else v.get i := by
  show (v.set m a hm)[i.val] = _
  rw [Vector.getElem_set]
  by_cases h : i.val = m
  · rw [if_pos h, if_pos h.symm]
  · rw [if_neg h, if_neg (Ne.symm h)]
    rfl

/-- The subkeys before `m` have their key word folded in, the others are the constants, and the pointer
stands at position `4m` of the cyclic key (R73). -/
theorem Key.foldedUpTo_spec (key : Key) (m : Nat) (hm : m ≤ 18) :
    (key.foldedUpTo m).2.val = 4 * m % key.bytes.length ∧
    ∀ i : Fin 18, (key.foldedUpTo m).1.get i =
      if i.val < m then Config.pInit.get i ^^^ key.cyclicWord i.val else Config.pInit.get i := by
  induction m with
  | zero => exact ⟨(Nat.zero_mod _).symm, fun _ => rfl⟩
  | succ m ih =>
    obtain ⟨hk, hp⟩ := ih (by omega)
    obtain ⟨hword, hnext⟩ := key.takeWord_eq _ _ hk
    rw [key.foldedUpTo_succ hm]
    refine ⟨hnext, fun i => ?_⟩
    simp only [Key.foldInto, get_set_eq_ite, hp, hword]
    by_cases him : i.val = m
    · obtain rfl : i = ⟨m, hm⟩ := Fin.ext him
      rw [if_pos rfl, if_neg (Nat.lt_irrefl _), if_pos (Nat.lt_succ_self _), Key.cyclicWord]
    · simp only [him, if_false, show i.val < m + 1 ↔ i.val < m by omega]

/-- A subkey after step 2 (R73). -/
theorem Key.get_foldedSubkeys (key : Key) (i : Fin 18) :
    key.foldedSubkeys.get i = Config.pInit.get i ^^^ key.cyclicWord i.val := by
  rw [key.foldedSubkeys_eq, (key.foldedUpTo_spec 18 (Nat.le_refl _)).2, if_pos i.isLt]

/-- Settles O26: `Key.get_foldedSubkeys`; the tables are the constants by definition. -/
theorem keyFoldingIsCyclicBigEndian : Obligations.KeyFoldingIsCyclicBigEndian :=
  fun key => ⟨rfl, key.get_foldedSubkeys⟩

/-- Step 2 depends on the 72 bytes of the cyclic expansion alone (R77). -/
theorem Key.folded_congr {k l : Key} (h : ∀ q, q < 72 → k.cyclic q = l.cyclic q) :
    k.folded = l.folded := by
  have hword : ∀ i : Fin 18, k.cyclicWord i.val = l.cyclicWord i.val := fun i => by
    simp only [Key.cyclicWord, h _ (show 4 * i.val < 72 by omega),
      h _ (show 4 * i.val + 1 < 72 by omega), h _ (show 4 * i.val + 2 < 72 by omega),
      h _ (show 4 * i.val + 3 < 72 by omega)]
  have hp : k.foldedSubkeys = l.foldedSubkeys := Vector.ext fun i hi => by
    have hk := k.get_foldedSubkeys ⟨i, hi⟩
    rw [hword, ← l.get_foldedSubkeys] at hk
    exact hk
  rw [Key.folded, Key.folded, hp]

/-- Settles O27: `DERIVE` sees the key only through step 2. -/
theorem equalExpansionsDeriveEqualTables : Obligations.EqualExpansionsDeriveEqualTables :=
  fun k l h => by rw [derive_eq, derive_eq, Key.folded_congr h]

/-! ## Step 3 -/

/-- The words before `2m` are final after `m` transforms. -/
theorem Chain.after_wordAt_of_lt (c : CipherState) {m n q : Nat} (hmn : m ≤ n) (hn : n ≤ 521)
    (hq : q < 2 * m) : (Chain.after c n).c.wordAt q = (Chain.after c m).c.wordAt q := by
  obtain ⟨k, rfl⟩ := Nat.exists_eq_add_of_le hmn
  induction k with
  | zero => rfl
  | succ k ih =>
    rw [← Nat.add_assoc, Chain.after_succ,
      Chain.transformAt_wordAt _ (m + k) _ (by omega) (by omega), if_neg (by omega),
      if_neg (by omega), ih (by omega) (by omega)]

/-- The words from `2m` on are untouched by the first `m` transforms. -/
theorem Chain.after_wordAt_of_ge (c : CipherState) {m q : Nat} (hm : m ≤ 521) (hq : 2 * m ≤ q)
    (hq' : q < 1042) : (Chain.after c m).c.wordAt q = c.wordAt q := by
  induction m with
  | zero => rfl
  | succ m ih =>
    rw [Chain.after_succ, Chain.transformAt_wordAt _ _ _ hm hq', if_neg (by omega),
      if_neg (by omega), ih (by omega) (by omega)]

/-- Transform `m` stores the pair it gives in the words `2m` and `2m + 1`. -/
theorem Chain.after_succ_x (c : CipherState) {m : Nat} (hm : m < 521) :
    (Chain.after c (m + 1)).x =
      ((Chain.after c (m + 1)).c.wordAt (2 * m), (Chain.after c (m + 1)).c.wordAt (2 * m + 1)) := by
  rw [Chain.after_succ, Chain.transformAt_x, Chain.transformAt_wordAt _ _ _ hm (by omega),
    Chain.transformAt_wordAt _ _ _ hm (by omega), if_pos rfl,
    if_neg (Nat.succ_ne_self _), if_pos rfl]

/-- A word of two CipherStates laid end to end. -/
theorem CipherState.wordAt_mixed (new old : CipherState) (n : Nat) {q : Nat} (hq : q < 1042) :
    (CipherState.mixed new old n).wordAt q = if q < n then new.wordAt q else old.wordAt q := by
  rw [CipherState.wordAt.eq_def (CipherState.mixed new old n)]
  by_cases hp : q < 18
  · simp only [hp, if_true, dif_pos, CipherState.mixed, getD_eq_dite, Vector.getElem_ofFn]
  · have ht : (q - 18) / 256 < 4 := by omega
    have hj : (q - 18) % 256 < 256 := by omega
    have hqtj : 18 + 256 * ((q - 18) / 256) + (q - 18) % 256 = q := by omega
    simp only [hp, if_false, dif_pos, CipherState.mixed, getD_eq_dite, ht, hj, hqtj,
      Vector.getElem_ofFn]

/-- The tables as they stand after `m` transforms: the words before `2m` are final, the others are those
that the chain started from (R74). -/
theorem Chain.after_eq_mixed (c : CipherState) {m : Nat} (hm : m ≤ 521) :
    (Chain.after c m).c = CipherState.mixed (Chain.after c 521).c c (2 * m) := by
  apply CipherState.ext_wordAt
  intro q hq
  rw [CipherState.wordAt_mixed _ _ _ hq]
  split
  · next hlt => exact (Chain.after_wordAt_of_lt c hm (Nat.le_refl _) hlt).symm
  · next hge => exact Chain.after_wordAt_of_ge c hm (Nat.not_lt.mp hge) hq

/-- The output of transform `m` is what its two words hold in the end. -/
theorem Chain.after_succ_x_final (c : CipherState) {m : Nat} (hm : m < 521) :
    (Chain.after c (m + 1)).x =
      ((Chain.after c 521).c.wordAt (2 * m), (Chain.after c 521).c.wordAt (2 * m + 1)) := by
  rw [Chain.after_succ_x c hm, Chain.after_wordAt_of_lt c hm (Nat.le_refl _) (by omega),
    Chain.after_wordAt_of_lt c hm (Nat.le_refl _) (by omega)]

/-- The input of transform `m`: (0, 0) for the first, else the two words written before it (R74,
R75). -/
theorem Chain.after_x (c : CipherState) {m : Nat} (hm : m ≤ 521) :
    (Chain.after c m).x =
      (if m = 0 then 0 else (Chain.after c 521).c.wordAt (2 * m - 2),
        if m = 0 then 0 else (Chain.after c 521).c.wordAt (2 * m - 1)) := by
  cases m with
  | zero => rfl
  | succ m => exact Chain.after_succ_x_final c hm

/-- Settles O28: the output of transform `m`, on the tables of `Chain.after_eq_mixed` and the input of
`Chain.after_x`. -/
theorem deriveIsOneChainOfTransforms : Obligations.DeriveIsOneChainOfTransforms := by
  intro key m hm
  rw [derive_eq, ← Chain.after_succ_x_final _ hm, Chain.after_succ, Chain.transformAt_x,
    Chain.after_eq_mixed _ (Nat.le_of_lt hm), Chain.after_x _ (Nat.le_of_lt hm)]

end Sys2Proof.Machine
end

section
/-! PROOFS. The Feistel core (R80 to R86 of spec/42_feistel_core.md). What holds of `FWD` carries over to
`INV`, which is `FWD` over the subkeys read backwards (R86). -/

namespace Sys2Proof.Machine

/-! ## The round function -/

/-- A table entry picked by the byte that has the number of the index. -/
theorem CipherState.entry_eq_get (c : CipherState) (t : Fin 4) {j : Byte} {a : Fin 256}
    (h : j.toNat = a.val) : c.entry t j = (c.s.get t).get a :=
  congrArg (c.s.get t).get (Fin.ext h)

/-- The round function in numbers, on the table entries picked by the bytes of the word (R80). -/
theorem toNat_roundF (c : CipherState) (x : Word) :
    (roundF c x).toNat =
      ((((c.entry 0 (byteOfWord x 3)).toNat + (c.entry 1 (byteOfWord x 2)).toNat) % 2 ^ 32 ^^^
        (c.entry 2 (byteOfWord x 1)).toNat) + (c.entry 3 (byteOfWord x 0)).toNat) % 2 ^ 32 := by
  rw [roundF, BitVec.toNat_add, BitVec.toNat_xor, BitVec.toNat_add]

/-- Settles O21: each byte of `x` is the digit of its number that `toNat_byteOfWord` names. -/
theorem roundFunctionFormula : Obligations.RoundFunctionFormula := by
  intro c x a b d e hx
  have ha : (byteOfWord x 3).toNat = a.val := by rw [toNat_byteOfWord]; omega
  have hb : (byteOfWord x 2).toNat = b.val := by rw [toNat_byteOfWord]; omega
  have hd : (byteOfWord x 1).toNat = d.val := by rw [toNat_byteOfWord]; omega
  have he : (byteOfWord x 0).toNat = e.val := by rw [toNat_byteOfWord]; omega
  rw [toNat_roundF, c.entry_eq_get 0 ha, c.entry_eq_get 1 hb, c.entry_eq_get 2 hd,
    c.entry_eq_get 3 he]

/-! ## The subkeys read backwards -/

/-- A read by `get` of a table given by its entries. -/
theorem get_ofFn_eq {α : Type} {n : Nat} (f : Fin n → α) (i : Fin n) :
    (Vector.ofFn f).get i = f i :=
  Vector.getElem_ofFn i.isLt

theorem last_sub_last_sub : ∀ i : Fin 18, 17 - (17 - i) = i := by decide
theorem last_sub_add_one : ∀ i : Fin 18, 17 - (i + 1) = 17 - i - 1 := by decide

@[simp] theorem CipherState.get_p_reversed (c : CipherState) (i : Fin 18) :
    c.reversed.p.get i = c.p.get (17 - i) := by
  rw [CipherState.reversed, get_ofFn_eq]

@[simp] theorem CipherState.s_reversed (c : CipherState) : c.reversed.s = c.s := by
  rw [CipherState.reversed]

@[simp] theorem CipherState.reversed_reversed (c : CipherState) : c.reversed.reversed = c := by
  obtain ⟨p, s⟩ := c
  simp only [CipherState.reversed, get_ofFn_eq, last_sub_last_sub, CipherState.mk.injEq, and_true]
  ext i hi
  rw [Vector.getElem_ofFn]
  rfl

/-- `F` reads the substitution tables alone. -/
@[simp] theorem roundF_reversed (c : CipherState) (x : Word) : roundF c.reversed x = roundF c x := by
  simp only [roundF, CipherState.entry, CipherState.s_reversed]

@[simp] theorem oneRound_reversed (c : CipherState) (h other : Word) (i : Fin 18) :
    oneRound c.reversed h other i = oneRound c h other (17 - i) := by
  rw [oneRound, oneRound, roundF_reversed, CipherState.get_p_reversed]

/-- Over the reversed subkeys, `FWD`'s iteration at i is `INV`'s at 17 - i. -/
theorem fwdIteration_reversed (c : CipherState) (h : Word × Word) (i : Fin 18) :
    fwdIteration c.reversed h i = invIteration c h (17 - i) := by
  simp only [fwdIteration, invIteration, oneRound_reversed, last_sub_add_one]

/-- Settles O25: the subkey indices of `INV`'s loop are 17 minus those of `FWD`'s. -/
theorem inverseIsForwardWithReversedSubkeys : Obligations.InverseIsForwardWithReversedSubkeys := by
  intro c xl xr
  have hindices : ([16, 14, 12, 10, 8, 6, 4, 2] : List (Fin 18)) =
      [1, 3, 5, 7, 9, 11, 13, 15].map (17 - ·) := rfl
  have hiteration : fwdIteration c.reversed = fun h i => invIteration c h (17 - i) :=
    funext fun h => funext (fwdIteration_reversed c h)
  rw [inv, fwd, hindices, hiteration, List.foldl_map, c.get_p_reversed, c.get_p_reversed]
  rfl

/-- `FWD` is `INV` over the subkeys read backwards. -/
theorem fwd_eq_inv_reversed (c : CipherState) (xl xr : Word) :
    fwd c xl xr = inv c.reversed xl xr := by
  rw [inverseIsForwardWithReversedSubkeys, c.reversed_reversed]

/-! ## The chains of rounds -/

/-- The halves `h` follow one another by the rounds of `FWD`, up to round `n` (R82, R87). -/
def RoundChain (c : CipherState) (h : Nat → Word) (n : Nat) : Prop :=
  ∀ i, i < n → h (i + 2) = oneRound c (h i) (h (i + 1)) (Fin.ofNat 18 (i + 1))

/-- One iteration of `FWD`'s loop is two rounds of the chain. -/
theorem fwdIteration_eq_of_chain {c : CipherState} {h : Nat → Word} {n i : Nat}
    (hh : RoundChain c h n) (hi : i + 1 < n) :
    fwdIteration c (h (i + 1), h i) (Fin.ofNat 18 (i + 1)) = (h (i + 3), h (i + 2)) := by
  have hindex : Fin.ofNat 18 (i + 1) + 1 = Fin.ofNat 18 (i + 1 + 1) := by
    apply Fin.ext
    simp only [Fin.val_add, Fin.val_ofNat, Fin.val_one, Nat.mod_add_mod]
  rw [hh (i + 1) hi, hh i (by omega), fwdIteration, hindex]

/-- `m` iterations of `FWD`'s loop are the first `2m` rounds of the chain. -/
theorem foldl_fwdIteration_eq_of_chain {c : CipherState} {h : Nat → Word} {n m : Nat}
    (hh : RoundChain c h n) (hm : 2 * m ≤ n) :
    ((List.range m).map fun j => Fin.ofNat 18 (2 * j + 1)).foldl (fwdIteration c) (h 1, h 0) =
      (h (2 * m + 1), h (2 * m)) := by
  induction m with
  | zero => rfl
  | succ m ih =>
    rw [List.range_succ, List.map_append, List.foldl_append, ih (by omega)]
    exact fwdIteration_eq_of_chain hh (by omega)

/-- Settles O22: `FWD`'s loop is 8 iterations along the chain. -/
theorem forwardTransformStepByStep : Obligations.ForwardTransformStepByStep := by
  intro c xl h h1 hh
  have hloop := foldl_fwdIteration_eq_of_chain (c := c) (m := 8) hh (Nat.le_refl 16)
  have hindices : (List.range 8).map (fun j => Fin.ofNat 18 (2 * j + 1)) =
      [1, 3, 5, 7, 9, 11, 13, 15] := rfl
  rw [fwd, ← h1, ← hindices, hloop]

theorem ofNat_sub_eq_sub_ofNat :
    ∀ n, n < 16 → Fin.ofNat 18 (16 - n) = 17 - Fin.ofNat 18 (n + 1) := by decide

/-- Settles O23: the chain of `FWD` over the reversed subkeys. -/
theorem inverseTransformStepByStep : Obligations.InverseTransformStepByStep := by
  intro c xl h h1 hh
  rw [inverseIsForwardWithReversedSubkeys, forwardTransformStepByStep c.reversed xl h,
    c.get_p_reversed]
  · rfl
  · rw [h1, c.get_p_reversed]
    rfl
  · intro n hn
    rw [hh n hn, c.get_p_reversed, roundF_reversed, ofNat_sub_eq_sub_ofNat n hn]

/-! ## The inverse -/

/-- `INV`'s loop takes `FWD`'s iterations back, the last one first, on the halves in the other order
(R85). -/
theorem foldl_invIteration_foldl_fwdIteration (c : CipherState) (l : List (Fin 18))
    (h : Word × Word) :
    (l.reverse.map (· + 1)).foldl (invIteration c) (l.foldl (fwdIteration c) h).swap = h.swap := by
  induction l generalizing h with
  | nil => rfl
  | cons i l ih =>
    rw [List.reverse_cons, List.map_append, List.foldl_append, List.foldl_cons, ih]
    exact invIteration_fwdIteration c h i

/-- `INV` takes `FWD` back: its first whitening undoes `FWD`'s last one, its loop `FWD`'s loop, and its
last whitening `FWD`'s first one (R85). -/
theorem inv_fwd (c : CipherState) (a b : Word) :
    inv c (fwd c a b).1 (fwd c a b).2 = (a, b) := by
  have hindices : ([16, 14, 12, 10, 8, 6, 4, 2] : List (Fin 18)) =
      ([1, 3, 5, 7, 9, 11, 13, 15] : List (Fin 18)).reverse.map (· + 1) := rfl
  have hloop := foldl_invIteration_foldl_fwdIteration c [1, 3, 5, 7, 9, 11, 13, 15]
    (a ^^^ c.p.get 0, b)
  simp only [Prod.swap] at hloop
  simp only [fwd, inv, whiten_whiten, hindices, hloop]

/-- Settles O24: the second order is the first one over the reversed subkeys. -/
theorem inverseUndoesForward : Obligations.InverseUndoesForward := by
  intro c a b
  refine ⟨inv_fwd c a b, ?_⟩
  rw [fwd_eq_inv_reversed, inverseIsForwardWithReversedSubkeys c a b]
  exact inv_fwd c.reversed a b

end Sys2Proof.Machine
end

section
/-! PROOFS. The Block Engine commands (R91 to R97 of spec/43_block_engine.md): the class that the ordered
tests of a command raise, what the command leaves behind when they all pass, and that a block
transformed in one mode and then in the other is the original block. -/

namespace Sys2Proof.Machine

/-! ## `BE_BLKSZ` -/

/-- Settles O31: the command has no tests and reads no state. -/
theorem beBlkszReturnsEight : Obligations.BeBlkszReturnsEight :=
  ⟨rfl, exec_beBlksz⟩

/-! ## `BE_INIT` -/

/-- The class that `BE_INIT m` raises, if any (R91). -/
theorem firstError_beInitTests (m : Mode) (s : State) :
    firstError (beInitTests m s) =
      if (s.eng m).init = true then some .reinit
      else if s.keylen.toNat = 0 then some .emptyKey
      else if 57 ≤ s.keylen.toNat then some .keyLen
      else none := by
  simp only [beInitTests, firstError_cons, firstError_nil, decide_eq_true_eq, Nat.succ_le_iff]

/-- A key whose bytes are `KEYMEM[0..KEYLEN-1]` is the key of the commands, and `KEYLEN` is not 0,
because no key is empty (R24, R76). -/
theorem State.key_eq_of_bytes {s : State} {key : Key}
    (hb : key.bytes = (List.range s.keylen.toNat).map s.keymemByte) :
    s.keylen.toNat ≠ 0 ∧ s.key = key := by
  have h0 : s.keylen.toNat ≠ 0 := fun h0 => by simp [h0, Key.bytes] at hb
  exact ⟨h0, Key.ext_bytes ((s.key_bytes h0).trans hb.symm)⟩

theorem otherMode_ne (m : Mode) : otherMode m ≠ m := by cases m <;> decide

/-- Settles O30: each error clause is one branch of the ordered tests; when none holds, the slot is that
of `initEngine`, and the host's side that of every command. -/
theorem beInitDerivesItsSlotOrRaises : Obligations.BeInitDerivesItsSlotOrRaises := by
  refine ⟨rfl, rfl, fun m s => ⟨fun hi => ?_, fun hu h0 => ?_, fun hu h57 => ?_,
    fun key hu h56 hb => ?_⟩⟩
  · exact finish_of_some (c := .reinit) _ _ (by rw [firstError_beInitTests, if_pos hi])
  · exact finish_of_some (c := .emptyKey) _ _ (by simp [firstError_beInitTests, hu, h0])
  · have h0 : s.keylen.toNat ≠ 0 := by omega
    exact finish_of_some (c := .keyLen) _ _ (by simp [firstError_beInitTests, hu, h0, h57])
  · obtain ⟨h0, rfl⟩ := State.key_eq_of_bytes hb
    have hend : exec (.beInit m) s = .next ((s.initEngine m).done 0) :=
      finish_of_none _ _ ((beInitTests_pass m s).mpr ⟨hu, h0, h56⟩)
    exact ⟨_, hend, by simp, by simp [(otherMode_ne m).symm], rfl, rfl, by simp,
      exec_sameHostSide hend⟩

/-! ## `BE_PROC` -/

/-- Two tests in a row that raise one class are one test. -/
theorem firstError_cons_cons_same (h h' : Bool) (c : ErrClass) (l : List (Bool × ErrClass)) :
    firstError ((h, c) :: (h', c) :: l) = if h ∨ h' then some c else firstError l := by
  cases h <;> simp [firstError_cons]

/-- The class that `BE_PROC m` raises, if any (R93). -/
theorem firstError_beProcTests (m : Mode) (s : State) :
    firstError (beProcTests m s) =
      if (s.eng m).init = false then some .uninit
      else if s.inLen.toNat < s.inOff.toNat + 8 ∨ s.outLen.toNat < s.outOff.toNat + 8 then
        some .bounds
      else if s.memBytes < s.inBase.toNat + s.inLen.toNat ∨
          s.memBytes < s.outBase.toNat + s.outLen.toNat then some .addr
      else if s.procIn ≠ s.procOut ∧ s.procIn < s.procOut + 8 ∧ s.procOut < s.procIn + 8 then
        some .overlap
      else none := by
  rw [beProcTests, firstError_cons, firstError_cons_cons_same, firstError_cons_cons_same,
    firstError_cons, firstError_nil]
  simp only [pastLength, State.outside, partialOverlap, decide_eq_true_eq, Bool.not_eq_true']

/-- What a `BE_PROC m` that succeeds leaves at its output address: the transform of the input block as
it stood before (R93, R94). -/
theorem loadBlock_of_beProc {m : Mode} {s t : State} (h : exec (.beProc m) s = .next t)
    (he : t.err = 0) :
    t.loadBlock s.procOut =
      transform m (s.eng m).tables (s.loadBlock s.procIn).1 (s.loadBlock s.procIn).2 := by
  obtain ⟨-, rfl⟩ := finish_done h he
  rw [State.loadBlock_done, State.loadBlock_block_same]

/-- `BE_PROC` leaves both slots alone. -/
theorem eng_of_beProc {m : Mode} {s t : State} (k : Mode) (h : exec (.beProc m) s = .next t) :
    t.eng k = s.eng k :=
  (exec_slot k h).resolve_right fun hs => hs.initialising

/-- Settles O32: each error clause is one branch of the ordered tests; when none holds, the output is
that of one `BLOCK`, which changes no byte outside its eight. -/
theorem beProcTransformsOneBlockOrRaises : Obligations.BeProcTransformsOneBlockOrRaises := by
  refine ⟨rfl, rfl, fun m s => ⟨fun hu => ?_, fun hi => ?_⟩⟩
  · exact finish_of_some (c := .uninit) _ _ (by rw [firstError_beProcTests, if_pos hu])
  have hinit : ¬ (s.eng m).init = false := by simp [hi]
  refine ⟨fun hb => ?_, fun hin hout => ?_⟩
  · exact finish_of_some (c := .bounds) _ _
      (by rw [firstError_beProcTests, if_neg hinit, if_pos hb])
  have hfits : ¬ (s.inLen.toNat < s.inOff.toNat + 8 ∨ s.outLen.toNat < s.outOff.toNat + 8) := by
    omega
  refine ⟨fun ha => ?_, fun hinTop houtTop => ⟨fun hne h1 h2 => ?_, fun hd => ?_⟩⟩
  · exact finish_of_some (c := .addr) _ _
      (by rw [firstError_beProcTests, if_neg hinit, if_neg hfits, if_pos ha])
  · have hinside : ¬ (s.memBytes < s.inBase.toNat + s.inLen.toNat ∨
        s.memBytes < s.outBase.toNat + s.outLen.toNat) := by omega
    exact finish_of_some (c := .overlap) _ _ (by
      rw [firstError_beProcTests, if_neg hinit, if_neg hfits, if_neg hinside,
        if_pos ⟨hne, h1, h2⟩])
  · have hpass : firstError (beProcTests m s) = none :=
      (beProcTests_pass m s).mpr ⟨hi, hin, hout, hinTop, houtTop, by omega⟩
    have hend : exec (.beProc m) s = .next ((s.block m s.procIn s.procOut).done 0) :=
      finish_of_none _ _ hpass
    refine ⟨_, hend, rfl, (loadBlock_of_beProc hend rfl).trans ?_, fun x hx => ?_⟩
    · cases m <;> rfl
    · exact exec_dmemByte_outside hend (not_inRange.mpr hx)

/-! ## One mode after the other -/

/-- The transform of the other mode takes a transform back (R85). -/
theorem transform_otherMode_transform (m : Mode) (c : CipherState) (x : Word × Word) :
    transform (otherMode m) c (transform m c x.1 x.2).1 (transform m c x.1 x.2).2 = x := by
  obtain ⟨hinv, hfwd⟩ := inverseUndoesForward c x.1 x.2
  cases m with
  | enc => exact hinv
  | dec => exact hfwd

/-- Settles O33: the second command transforms, over equal tables, what the first one wrote. -/
theorem beProcRoundTrip : Obligations.BeProcRoundTrip := by
  intro m s t u ob ol oo htables ht hte hu hue j hj
  have hfirst := loadBlock_of_beProc ht hte
  have hsecond : u.loadBlock (ob.toNat + oo.toNat) =
      transform (otherMode m) (t.eng (otherMode m)).tables
        (t.loadBlock s.procOut).1 (t.loadBlock s.procOut).2 :=
    (loadBlock_of_beProc hu hue).trans (by cases m <;> rfl)
  have hslots : (t.eng (otherMode m)).tables = (s.eng m).tables := by
    rw [eng_of_beProc _ ht]
    cases m with
    | enc => exact htables.symm
    | dec => exact htables
  have hblock : u.loadBlock (ob.toNat + oo.toNat) = s.loadBlock s.procIn := by
    rw [hsecond, hslots, hfirst, transform_otherMode_transform]
  exact State.dmemByte_of_loadBlock hblock j hj

end Sys2Proof.Machine
end

section
/-! PROOFS. The Packet Cryptor commands (R99 to R108 of spec/44_packet_cryptor.md): the class that the
ordered tests of a command raise, the blocks that a whole-buffer transform leaves behind, and the
checksum before and after a change of the payload. -/

namespace Sys2Proof.Machine

/-! ## `PC_NEW` -/

/-- On two uninitialised slots `PC_NEW` has the tests of `BE_INIT` on either slot (R91, R100). -/
theorem pcNewTests_eq_beInitTests {s : State} (m : Mode) (h0 : s.eng0.init = false)
    (h1 : s.eng1.init = false) : pcNewTests s = beInitTests m s := by
  have hm : (s.eng m).init = false := by cases m <;> assumption
  simp [pcNewTests, beInitTests, h0, h1, hm]

/-- The class that `PC_NEW` raises, if any (R100). -/
theorem firstError_pcNewTests (s : State) :
    firstError (pcNewTests s) =
      if s.eng0.init = true ∨ s.eng1.init = true then some .reinit
      else if s.keylen.toNat = 0 then some .emptyKey
      else if 57 ≤ s.keylen.toNat then some .keyLen
      else none := by
  simp only [pcNewTests, firstError_cons, firstError_nil, decide_eq_true_eq, Nat.succ_le_iff,
    Bool.or_eq_true]

/-- `BE_INIT ENC` followed by `BE_INIT DEC` ends where `PC_NEW` does (R100): both slots have the same
tests and the same key, and neither command reads what the last one left in `ERR` and `RESULT`. -/
theorem exec_beInit_beInit_eq_pcNew {s t : State} (h0 : s.eng0.init = false)
    (h1 : s.eng1.init = false) (h : exec (.beInit .enc) s = .next t) :
    exec (.beInit .dec) t = exec .pcNew s := by
  have henc := pcNewTests_eq_beInitTests .enc h0 h1
  have hdec := pcNewTests_eq_beInitTests .dec h0 h1
  rcases finish_next h with ⟨c, hc, rfl⟩ | ⟨hn, rfl⟩
  · have hagain : exec (.beInit .dec) (s.raise c) = exec (.beInit .dec) s :=
      commandsIgnoreTheLastOutcome _ s c.code 0
    rw [← henc] at hc
    rw [hagain, exec_pcNew, finish_of_some _ _ hc]
    exact finish_of_some _ _ (hdec ▸ hc)
  · have hagain : exec (.beInit .dec) ((s.initEngine .enc).done 0) =
        exec (.beInit .dec) (s.initEngine .enc) := commandsIgnoreTheLastOutcome _ _ 0 0
    rw [← henc] at hn
    have hnext : firstError (beInitTests .dec (s.initEngine .enc)) = none :=
      (congrArg firstError hdec).symm.trans hn
    rw [hagain, exec_pcNew, finish_of_none _ _ hn, exec_beInit, finish_of_none _ _ hnext]

/-- Settles O34: each error clause is one branch of the ordered tests; when none holds, both slots are
derived from the one key. -/
theorem pcNewDerivesBothSlotsOrRaises : Obligations.PcNewDerivesBothSlotsOrRaises := by
  refine ⟨rfl, fun s => ⟨fun hi => ?_, fun hu0 hu1 h0 => ?_, fun hu0 hu1 h57 => ?_,
    fun key hu0 hu1 h56 hb => ?_, fun t hu0 hu1 => exec_beInit_beInit_eq_pcNew hu0 hu1⟩⟩
  · exact finish_of_some (c := .reinit) _ _ (by rw [firstError_pcNewTests, if_pos hi])
  · exact finish_of_some (c := .emptyKey) _ _ (by simp [firstError_pcNewTests, hu0, hu1, h0])
  · have h0 : s.keylen.toNat ≠ 0 := by omega
    exact finish_of_some (c := .keyLen) _ _ (by simp [firstError_pcNewTests, hu0, hu1, h0, h57])
  · obtain ⟨h0, rfl⟩ := State.key_eq_of_bytes hb
    exact finish_of_none _ _ ((pcNewTests_pass s).mpr ⟨hu0, hu1, h0, h56⟩)

/-! ## `PC_CRYPT` and `PC_DECRYPT` -/

/-- The class that the whole-buffer transform raises, if any (R102, R104). -/
theorem firstError_bufferTests (m : Mode) (s : State) :
    firstError (bufferTests m s) =
      if s.inLen.toNat = 0 ∨ s.inLen.toNat % 8 ≠ 0 then some .length
      else if (s.eng m).init = false then some .uninit
      else if s.memBytes < s.inBase.toNat + s.inLen.toNat ∨
          s.memBytes < s.outBase.toNat + s.inLen.toNat then some .addr
      else if s.inBase.toNat ≠ s.outBase.toNat ∧
          s.inBase.toNat < s.outBase.toNat + s.inLen.toNat ∧
          s.outBase.toNat < s.inBase.toNat + s.inLen.toNat then some .overlap
      else none := by
  rw [bufferTests, firstError_cons, firstError_cons, firstError_cons_cons_same, firstError_cons,
    firstError_nil]
  simp only [State.outside, partialOverlap, decide_eq_true_eq, Bool.not_eq_true']

section BufferDone
/-! What a whole-buffer transform that succeeds has done. -/

variable {m : Mode} {s t : State} (h : transformBuffer m s = .next t) (he : t.err = 0)
include h he

/-- It has changed DMEM and the two result registers alone. -/
theorem eq_of_transformBuffer :
    t = { s with dmem := t.dmem, err := 0, result := s.inLen } := by
  obtain ⟨-, rfl⟩ := finish_done h he
  rw [State.blocks_eq_withDmem]
  rfl

/-- Block `k` of its output is the transform of block `k` of its input as it stood before (R102,
R103). -/
theorem loadBlock_of_transformBuffer {k : Nat} (hk : k < s.inLen.toNat / 8) :
    t.loadBlock (s.outBase.toNat + 8 * k) = transform m (s.eng m).tables
      (s.loadBlock (s.inBase.toNat + 8 * k)).1 (s.loadBlock (s.inBase.toNat + 8 * k)).2 := by
  obtain ⟨hn, rfl⟩ := finish_done h he
  obtain ⟨-, h8, -, -, -, hover⟩ := (bufferTests_pass m s).mp hn
  rw [State.loadBlock_done, State.loadBlock_blocks _ _ _ _ _ _ (by omega) hk]

/-- It has left the bytes outside its output range alone (R102). -/
theorem dmemByte_of_transformBuffer {x : Nat}
    (hx : x < s.outBase.toNat ∨ s.outBase.toNat + s.inLen.toNat ≤ x) :
    t.dmemByte x = s.dmemByte x := by
  obtain ⟨hn, rfl⟩ := finish_done h he
  exact State.dmemByte_buffer_outside hn (not_inRange.mpr hx)

/-- It has left both slots alone. -/
theorem eng_of_transformBuffer (k : Mode) : t.eng k = s.eng k := by
  obtain ⟨-, rfl⟩ := finish_done h he
  simp

end BufferDone

theorem transformBuffer_length (m : Mode) (s : State)
    (h : s.inLen.toNat = 0 ∨ s.inLen.toNat % 8 ≠ 0) :
    transformBuffer m s = .next (s.raise .length) :=
  finish_of_some _ _ (by rw [firstError_bufferTests, if_pos h])

section LegalLength
/-! The clauses of R102 and R104 for a buffer of whole blocks, in the order of the tests. -/

variable {m : Mode} {s : State} (h0 : s.inLen.toNat ≠ 0) (h8 : s.inLen.toNat % 8 = 0)
include h0 h8

theorem transformBuffer_uninit (hu : (s.eng m).init = false) :
    transformBuffer m s = .next (s.raise .uninit) :=
  finish_of_some _ _ (by rw [firstError_bufferTests, if_neg (by omega), if_pos hu])

variable (hi : (s.eng m).init = true)
include hi

theorem transformBuffer_addr
    (ha : s.memBytes < s.inBase.toNat + s.inLen.toNat ∨
      s.memBytes < s.outBase.toNat + s.inLen.toNat) :
    transformBuffer m s = .next (s.raise .addr) :=
  finish_of_some _ _ (by
    rw [firstError_bufferTests, if_neg (by omega), if_neg (by simp [hi]), if_pos ha])

variable (hin : s.inBase.toNat + s.inLen.toNat ≤ s.memBytes)
  (hout : s.outBase.toNat + s.inLen.toNat ≤ s.memBytes)
include hin hout

omit h0 in
theorem transformBuffer_overlap (hne : s.inBase ≠ s.outBase)
    (h1 : s.inBase.toNat < s.outBase.toNat + s.inLen.toNat)
    (h2 : s.outBase.toNat < s.inBase.toNat + s.inLen.toNat) :
    transformBuffer m s = .next (s.raise .overlap) :=
  finish_of_some _ _ (by
    rw [firstError_bufferTests, if_neg (by omega), if_neg (by simp [hi]), if_neg (by omega),
      if_pos ⟨BitVec.toNat_ne.mp hne, h1, h2⟩])

/-- With the ranges the same or disjoint it transforms every block and changes nothing else (R102). -/
theorem transformBuffer_transforms
    (hd : s.inBase = s.outBase ∨ s.inBase.toNat + s.inLen.toNat ≤ s.outBase.toNat ∨
      s.outBase.toNat + s.inLen.toNat ≤ s.inBase.toNat) :
    ∃ t, transformBuffer m s = .next t ∧
      t = { s with dmem := t.dmem, err := 0, result := s.inLen } ∧
      (∀ k, k < s.inLen.toNat / 8 → t.loadBlock (s.outBase.toNat + 8 * k) =
        transform m (s.eng m).tables (s.loadBlock (s.inBase.toNat + 8 * k)).1
          (s.loadBlock (s.inBase.toNat + 8 * k)).2) ∧
      ∀ x, x < s.outBase.toNat ∨ s.outBase.toNat + s.inLen.toNat ≤ x →
        t.dmemByte x = s.dmemByte x := by
  rw [← BitVec.toNat_inj] at hd
  have h := finish_of_none s
    ((s.blocks m s.inBase.toNat s.outBase.toNat (s.inLen.toNat / 8)).done s.inLen)
    ((bufferTests_pass m s).mpr ⟨h0, h8, hi, hin, hout, by omega⟩)
  exact ⟨_, h, eq_of_transformBuffer h rfl, fun _ => loadBlock_of_transformBuffer h rfl,
    fun _ => dmemByte_of_transformBuffer h rfl⟩

end LegalLength

/-- Settles O35: each clause is that of the whole-buffer transform, on slot 0. -/
theorem pcCryptEncryptsEveryBlockOrRaises : Obligations.PcCryptEncryptsEveryBlockOrRaises :=
  ⟨rfl, fun s => ⟨transformBuffer_length .enc s, fun h0 h8 =>
    ⟨transformBuffer_uninit (m := .enc) h0 h8, fun hi =>
      ⟨transformBuffer_addr (m := .enc) h0 h8 hi, fun hin hout =>
        ⟨transformBuffer_overlap (m := .enc) h8 hi hin hout,
          transformBuffer_transforms (m := .enc) h0 h8 hi hin hout⟩⟩⟩⟩⟩

/-- Settles O36: each clause is that of the whole-buffer transform, on slot 1. -/
theorem pcDecryptDecryptsEveryBlockOrRaises : Obligations.PcDecryptDecryptsEveryBlockOrRaises :=
  ⟨rfl, fun s => ⟨transformBuffer_length .dec s, fun h0 h8 =>
    ⟨transformBuffer_uninit (m := .dec) h0 h8, fun hi =>
      ⟨transformBuffer_addr (m := .dec) h0 h8 hi, fun hin hout =>
        ⟨transformBuffer_overlap (m := .dec) h8 hi hin hout,
          transformBuffer_transforms (m := .dec) h0 h8 hi hin hout⟩⟩⟩⟩⟩

/-! ## Blocks and buffers -/

/-- `PC_CRYPT` and `PC_DECRYPT` are the whole-buffer transform on their slots (R102, R104). -/
theorem exec_buffer {i : Instr} {m : Mode} (s : State)
    (hi : (i = .pcCrypt ∧ m = .enc) ∨ (i = .pcDecrypt ∧ m = .dec)) :
    exec i s = transformBuffer m s := by
  rcases hi with ⟨rfl, rfl⟩ | ⟨rfl, rfl⟩ <;> rfl

/-- Settles O37: either output block is the transform, over the same tables, of an input block with the
same bytes. -/
theorem blocksAreIndependent : Obligations.BlocksAreIndependent := by
  intro i m s s' t t' k k' hi htables h he h' he' hk hk' hbytes
  rw [exec_buffer _ hi] at h h'
  have hin : s.loadBlock (s.inBase.toNat + 8 * k) = s'.loadBlock (s'.inBase.toNat + 8 * k') :=
    State.loadBlock_congr hbytes
  refine State.dmemByte_of_loadBlock ?_
  rw [loadBlock_of_transformBuffer h he hk, loadBlock_of_transformBuffer h' he' hk', htables, hin]

/-- A whole-buffer transform in the other mode, over equal tables and on the output of a first one,
gives the original bytes back (R105). -/
theorem transformBuffer_otherMode {m : Mode} {s t u : State} {d : Word}
    (htables : (s.eng (otherMode m)).tables = (s.eng m).tables)
    (h : transformBuffer m s = .next t) (he : t.err = 0)
    (h' : transformBuffer (otherMode m) { t with inBase := s.outBase, outBase := d } = .next u)
    (he' : u.err = 0) {x : Nat} (hx : x < s.inLen.toNat) :
    u.dmemByte (d.toNat + x) = s.dmemByte (s.inBase.toNat + x) := by
  obtain ⟨hn, -⟩ := finish_done h he
  obtain ⟨-, h8, -⟩ := (bufferTests_pass m s).mp hn
  have hk : x / 8 < s.inLen.toNat / 8 := by omega
  have hlen : t.inLen = s.inLen := by rw [eq_of_transformBuffer h he]
  have hsecond : u.loadBlock (d.toNat + 8 * (x / 8)) =
      transform (otherMode m) (t.eng (otherMode m)).tables
        (t.loadBlock (s.outBase.toNat + 8 * (x / 8))).1
        (t.loadBlock (s.outBase.toNat + 8 * (x / 8))).2 :=
    (loadBlock_of_transformBuffer h' he' (hlen.symm ▸ hk)).trans (by cases m <;> rfl)
  have hblock : u.loadBlock (d.toNat + 8 * (x / 8)) =
      s.loadBlock (s.inBase.toNat + 8 * (x / 8)) := by
    rw [hsecond, eng_of_transformBuffer h he, htables, loadBlock_of_transformBuffer h he hk,
      transform_otherMode_transform]
  have hbyte := State.dmemByte_of_loadBlock hblock (x % 8) (Nat.mod_lt _ (by decide))
  rwa [Nat.add_assoc, Nat.add_assoc, Nat.div_add_mod] at hbyte

/-- Settles O38: the second command is the whole-buffer transform in the other mode of the first. -/
theorem bufferRoundTrip : Obligations.BufferRoundTrip := by
  rintro i j s t u d (⟨rfl, rfl⟩ | ⟨rfl, rfl⟩) htables h he h' he' x hx
  · exact transformBuffer_otherMode (m := .enc) htables.symm h he h' he' hx
  · exact transformBuffer_otherMode (m := .dec) htables h he h' he' hx

/-! ## `PC_CHECKSUM` -/

/-- The class that `PC_CHECKSUM` raises, if any (R106). -/
theorem firstError_checksumTests (s : State) :
    firstError (checksumTests s) =
      if s.inLen.toNat < 8 ∨ s.inLen.toNat % 4 ≠ 0 then some .length
      else if s.memBytes < s.inBase.toNat + s.inLen.toNat then some .addr
      else none := by
  rw [checksumTests, firstError_cons_cons_same, firstError_cons, firstError_nil]
  simp only [State.outside, decide_eq_true_eq]

/-- The word-by-word accumulator of R106 is the checksum. -/
theorem State.eq_checksum_of_accumulator {s : State} {base : Nat} {a : Nat → Word} (h0 : a 0 = 0)
    (hsucc : ∀ j, a (j + 1) = a j ^^^ s.le32 (base + 4 * j)) (n : Nat) :
    a n = s.checksum base n := by
  induction n with
  | zero => exact h0
  | succ n ih => rw [hsucc, ih, State.checksum_succ]

/-- Settles O39: each error clause is one branch of the ordered tests; when none holds, the checksum is
the accumulator, and it is written over the trailer alone. -/
theorem pcChecksumComparesAndOverwritesOrRaises :
    Obligations.PcChecksumComparesAndOverwritesOrRaises := by
  refine ⟨rfl, fun s => ⟨fun hl => ?_, fun h8 h4 => ⟨fun ha => ?_, fun a hin h0 hsucc => ?_⟩⟩⟩
  · exact finish_of_some (c := .length) _ _ (by rw [firstError_checksumTests, if_pos hl])
  · exact finish_of_some (c := .addr) _ _
      (by rw [firstError_checksumTests, if_neg (by omega), if_pos ha])
  · have hend := finish_of_none s ((s.putLe32 s.trailer s.payloadChecksum).done
      (boolWord (s.le32 s.trailer == s.payloadChecksum)))
      ((checksumTests_pass s).mpr ⟨h8, h4, hin⟩)
    have ha : a ((s.inLen.toNat - 8) / 4) = s.payloadChecksum :=
      State.eq_checksum_of_accumulator h0 hsucc _
    rw [ha]
    refine ⟨_, hend, rfl, ?_, State.le32_putLe32_same s s.trailer _, fun x hx => ?_⟩
    · simp only [State.done_result, boolWord, beq_iff_eq, State.trailer]
    · exact State.dmemByte_putLe32_outside s s.trailer _ x (by unfold State.trailer; omega)

/-- Writing the word that already stands there changes no byte. -/
theorem State.dmemByte_putLe32_le32 (s : State) (a x : Nat) :
    (s.putLe32 a (s.le32 a)).dmemByte x = s.dmemByte x := by
  rw [State.dmemByte_putLe32]
  split
  · rename_i hx
    rw [State.byteOfWord_le32 _ _ _ (by omega), Nat.add_sub_cancel' hx.1]
  · rfl

/-- A `PC_CHECKSUM` that succeeds leaves a buffer that passes its tests and whose trailer is the
checksum of the payload (R107). -/
theorem trailer_of_pcChecksum {s t : State} (h : exec .pcChecksum s = .next t) (he : t.err = 0) :
    firstError (checksumTests t) = none ∧ t.le32 t.trailer = t.payloadChecksum := by
  obtain ⟨hn, rfl⟩ := finish_done h he
  obtain ⟨h8, -⟩ := (checksumTests_pass s).mp hn
  refine ⟨hn, (State.le32_putLe32_same s s.trailer _).trans ?_⟩
  refine (State.checksum_congr (a := s.inBase.toNat) (b := s.inBase.toNat) _ fun j hj => ?_).symm
  exact State.le32_putLe32_outside s s.trailer _ _ (by unfold State.trailer; omega)

/-- Settles O40: the second command writes over the trailer the word that stands there. -/
theorem secondChecksumReturnsOne : Obligations.SecondChecksumReturnsOne := by
  intro s t h he
  obtain ⟨hn, htrailer⟩ := trailer_of_pcChecksum h he
  have hend : exec .pcChecksum t = .next ((t.putLe32 t.trailer (t.le32 t.trailer)).done 1) := by
    rw [exec_pcChecksum, finish_of_none _ _ hn, htrailer, beq_self_eq_true]
    rfl
  exact ⟨_, hend, by rw [he]; rfl, State.dmemByte_putLe32_le32 t t.trailer⟩

/-! ## A flipped bit -/

/-- Flipping a bit of a byte changes it. -/
theorem flippedBit_ne (v : Byte) {b : Nat} (hb : b < 8) : v ^^^ (1#8 <<< b) ≠ v := by
  have hbit : ∀ b < 8, 1#8 <<< b ≠ 0#8 := by decide
  intro h
  exact hbit b hb ((BitVec.xor_right_inj v).mp (h.trans BitVec.xor_zero.symm))

/-- Words with a different byte are different. -/
theorem State.le32_ne {s t : State} {a j : Nat} (hj : j < 4)
    (h : t.dmemByte (a + j) ≠ s.dmemByte (a + j)) : t.le32 a ≠ s.le32 a := by
  intro hw
  rw [← State.byteOfWord_le32 t a j hj, hw, State.byteOfWord_le32 s a j hj] at h
  exact h rfl

/-- If exactly one word differs, so does the checksum: the others cancel (R107). -/
theorem State.checksum_ne {s t : State} {a n k : Nat} (hk : k < n)
    (hne : t.le32 (a + 4 * k) ≠ s.le32 (a + 4 * k))
    (heq : ∀ j, j < n → j ≠ k → t.le32 (a + 4 * j) = s.le32 (a + 4 * j)) :
    t.checksum a n ≠ s.checksum a n := by
  induction n with
  | zero => omega
  | succ n ih =>
    rw [State.checksum_succ, State.checksum_succ]
    by_cases hkn : k = n
    · subst hkn
      have hinit : t.checksum a k = s.checksum a k :=
        State.checksum_congr k fun j hj => heq j (by omega) (by omega)
      rw [hinit]
      exact fun h => hne ((BitVec.xor_right_inj _).mp h)
    · rw [heq n (by omega) (Ne.symm hkn)]
      have hinit := ih (by omega) fun j hj => heq j (by omega)
      exact fun h => hinit ((BitVec.xor_left_inj _).mp h)

/-- Storing another byte in one of `n` words changes their checksum. -/
theorem State.checksum_storeDmem_ne {s : State} {a n x : Nat} {v : Byte} (hx : inRange a (4 * n) x)
    (hv : v ≠ s.dmemByte x) : (s.storeDmem x v).checksum a n ≠ s.checksum a n := by
  obtain ⟨h1, h2⟩ := hx
  obtain ⟨y, rfl⟩ := Nat.exists_eq_add_of_le h1
  refine State.checksum_ne (k := y / 4) (by omega) ?_ fun j hj hjk => ?_
  · refine State.le32_ne (Nat.mod_lt y (by decide)) ?_
    rwa [Nat.add_assoc, Nat.div_add_mod, State.dmemByte_storeDmem, if_pos rfl]
  · refine State.le32_congr fun i hi => ?_
    rw [State.dmemByte_storeDmem, if_neg (by omega)]

/-- A changed byte of the payload makes `PC_CHECKSUM` return 0 where the trailer was the checksum: the
checksum changes and the trailer does not (R107). -/
theorem exec_pcChecksum_storeDmem {t : State} {x : Nat} {v : Byte}
    (hn : firstError (checksumTests t) = none) (htrailer : t.le32 t.trailer = t.payloadChecksum)
    (hx : inRange t.inBase.toNat (t.inLen.toNat - 8) x) (hv : v ≠ t.dmemByte x) :
    ∃ u, exec .pcChecksum (t.storeDmem x v) = .next u ∧ u.err = 0 ∧ u.result = 0 := by
  obtain ⟨h8, h4, -⟩ := (checksumTests_pass t).mp hn
  obtain ⟨hlow, hhigh⟩ := hx
  have hsum : (t.storeDmem x v).payloadChecksum ≠ t.payloadChecksum :=
    State.checksum_storeDmem_ne (a := t.inBase.toNat) (n := (t.inLen.toNat - 8) / 4)
      ⟨hlow, by omega⟩ hv
  have hword : (t.storeDmem x v).le32 t.trailer = t.le32 t.trailer :=
    State.le32_congr fun j hj => by
      rw [State.dmemByte_storeDmem, if_neg (by unfold State.trailer; omega)]
  have hdiffer : (t.storeDmem x v).le32 t.trailer ≠ (t.storeDmem x v).payloadChecksum :=
    fun heq => hsum (heq.symm.trans (hword.trans htrailer))
  exact ⟨_, finish_of_none _ _ hn, rfl, congrArg boolWord (beq_false_of_ne hdiffer)⟩

/-- Settles O41: the first command leaves the checksum in the trailer, and the flip changes a byte of
the payload. -/
theorem flippedBitFailsTheChecksum : Obligations.FlippedBitFailsTheChecksum := by
  intro s t x b h he hlow hhigh hb
  obtain ⟨hn, htrailer⟩ := trailer_of_pcChecksum h he
  have hside := exec_sameHostSide h
  refine exec_pcChecksum_storeDmem hn htrailer ?_ (flippedBit_ne _ hb)
  rw [hside.inBase, hside.inLen]
  exact ⟨hlow, by omega⟩

/-! ## The slots that a command does not use -/

theorem bufferTests_setEng_of_ne (s : State) {k m : Mode} (h : k ≠ m) (e : Engine) :
    bufferTests k (s.setEng m e) = bufferTests k s := by
  simp [bufferTests, State.eng_setEng_of_ne s e h.symm, State.outside]

/-- The whole-buffer transform of one slot commutes with a change of the other (R99, R108). -/
theorem transformBuffer_setEng_of_ne {s t : State} {k m : Mode} (hk : k ≠ m) (e : Engine)
    (h : transformBuffer k s = .next t) : transformBuffer k (s.setEng m e) = .next (t.setEng m e) := by
  refine finish_commute (f := (State.setEng · m e)) (bufferTests_setEng_of_ne s hk e)
    (State.setEng_raise s m e) ?_ h
  simp only [State.setEng_inBase, State.setEng_outBase, State.setEng_inLen]
  rw [State.blocks_setEng s hk, State.setEng_done]

/-- Settles O54: each command commutes with a change of a slot that it does not use. -/
theorem cryptorUsesOnlyItsSlot : Obligations.CryptorUsesOnlyItsSlot := fun _ _ e f =>
  ⟨transformBuffer_setEng_of_ne (k := .enc) (m := .dec) (by decide) f,
    transformBuffer_setEng_of_ne (k := .dec) (m := .enc) (by decide) e,
    finish_commute (f := fun s => (s.setEng .enc e).setEng .dec f) rfl (fun _ => rfl) rfl⟩

end Sys2Proof.Machine
end

section
/-! PROOFS. The error codes (R111 to R114, R126 of spec/60_exceptions.md). Every command is the `finish` of
one ordered list of tests with an effect that ends in `done`, so the code it ends with is a function of
its tests alone, and each obligation is a fact about the lists. -/

namespace Sys2Proof.Machine

/-! ## A command as its tests -/

/-- The ordered tests of every command (R114). -/
def commandTests (i : Instr) (s : State) : List (Bool × ErrClass) :=
  match i with
  | .beInit m => beInitTests m s
  | .beBlksz => []
  | .beProc m => beProcTests m s
  | .pcNew => pcNewTests s
  | .pcCrypt => bufferTests .enc s
  | .pcDecrypt => bufferTests .dec s
  | .pcChecksum => checksumTests s

/-- Every command ends from its tests, and its effects leave `ERR` = 0 (R64, R113). -/
theorem exec_eq_finish (i : Instr) (s : State) :
    ∃ d : State, d.err = 0 ∧ exec i s = finish (commandTests i s) s d := by
  cases i
  all_goals exact ⟨State.done _ _, rfl, rfl⟩

/-! ## The code of a list of tests -/

/-- The code that a command with these tests ends with: that of the class raised, or 0 (R112). -/
def endCode (l : List (Bool × ErrClass)) : BitVec 4 := (firstError l).elim 0 ErrClass.code

@[simp] theorem endCode_nil : endCode [] = 0 := rfl

@[simp] theorem endCode_cons (h : Bool) (c : ErrClass) (l : List (Bool × ErrClass)) :
    endCode ((h, c) :: l) = if h then c.code else endCode l := by
  cases h <;> rfl

/-- What holds of 0 and of the code of each test holds of the code of the list. -/
theorem endCode_of_forall {P : BitVec 4 → Prop} {l : List (Bool × ErrClass)} (h0 : P 0)
    (hl : ∀ p ∈ l, P p.2.code) : P (endCode l) := by
  cases hf : firstError l with
  | none => simpa [endCode, hf] using h0
  | some c => simpa [endCode, hf] using hl _ (firstError_mem hf)

theorem endCode_le (l : List (Bool × ErrClass)) : (endCode l).toNat ≤ 9 :=
  endCode_of_forall (P := (·.toNat ≤ 9)) (Nat.zero_le 9) fun p _ => p.2.code_le

/-- A command answers a next state, with the code of its tests (R114, R126). -/
theorem exec_ends (i : Instr) (s : State) :
    ∃ t, exec i s = .next t ∧ t.err = endCode (commandTests i s) := by
  obtain ⟨d, hd, hx⟩ := exec_eq_finish i s
  rw [hx]
  cases hf : firstError (commandTests i s) with
  | some c => exact ⟨_, finish_of_some s d hf, by simp [endCode, hf]⟩
  | none => exact ⟨_, finish_of_none s d hf, by simp [endCode, hf, hd]⟩

theorem err_of_exec {i : Instr} {s t : State} (h : exec i s = .next t) :
    t.err = endCode (commandTests i s) := by
  obtain ⟨u, hu, he⟩ := exec_ends i s
  cases h.symm.trans hu
  exact he

/-- Settles O42: the command ends, and no code of a list of tests exceeds 9. -/
theorem everyCommandEnds : Obligations.EveryCommandEnds := by
  intro i s
  obtain ⟨t, hx, he⟩ := exec_ends i s
  exact ⟨t, hx, he ▸ endCode_le _⟩

/-! ## The classes of each command -/

/-- R112's column "raised by" lists, for each command, the codes of its tests and 0. -/
theorem code_mem_endCodes {i : Instr} {s : State} :
    ∀ p ∈ commandTests i s, p.2.code ∈ endCodes i := by
  cases i
  all_goals simp [commandTests, beInitTests, beProcTests, pcNewTests, bufferTests, checksumTests,
    ErrClass.code, endCodes]

theorem zero_mem_endCodes (i : Instr) : 0 ∈ endCodes i := by cases i <;> simp [endCodes]

/-- Settles O43: the code is 0 or that of one of the command's tests. -/
theorem commandsEndOnlyWithTheirCodes : Obligations.CommandsEndOnlyWithTheirCodes := by
  intro i s t h
  rw [err_of_exec h]
  exact endCode_of_forall (zero_mem_endCodes i) code_mem_endCodes

/-! ## The first cause -/

/-- The tests of a whole-buffer transform, in R114's order. -/
theorem endCode_bufferTests (m : Mode) (s : State) :
    endCode (bufferTests m s) = firstCause.bufferCause s (s.eng m) := by
  simp only [bufferTests, State.outside, partialOverlap, endCode_cons, endCode_nil, ErrClass.code,
    decide_eq_true_eq, Bool.not_eq_true', firstCause.bufferCause]

/-- The tests of each command, in R114's order. -/
theorem endCode_commandTests (i : Instr) (s : State) :
    endCode (commandTests i s) = firstCause i s := by
  cases i with
  | beInit m =>
    simp only [commandTests, beInitTests, endCode_cons, endCode_nil, ErrClass.code,
      decide_eq_true_eq, firstCause, Nat.succ_le_iff]
  | beBlksz => rfl
  | beProc m =>
    simp only [commandTests, beProcTests, pastLength, State.outside, partialOverlap, endCode_cons,
      endCode_nil, ErrClass.code, decide_eq_true_eq, Bool.not_eq_true', firstCause]
  | pcNew =>
    simp only [commandTests, pcNewTests, endCode_cons, endCode_nil, ErrClass.code,
      decide_eq_true_eq, Bool.or_eq_true, firstCause, Nat.succ_le_iff]
  | pcCrypt => exact endCode_bufferTests .enc s
  | pcDecrypt => exact endCode_bufferTests .dec s
  | pcChecksum =>
    simp only [commandTests, checksumTests, State.outside, endCode_cons, endCode_nil,
      ErrClass.code, decide_eq_true_eq, firstCause]

/-- Settles O44: the code of the tests is that of the first cause, and a refused word reaches no
command. -/
theorem firstCauseIsReported : Obligations.FirstCauseIsReported := by
  refine ⟨fun i s => ?_, fun s w rest hp hw => ?_⟩
  · rw [← endCode_commandTests]
    exact exec_ends i s
  · obtain ⟨e, he⟩ := (exists_decode_error_iff w).mpr (not_exists.mpr hw)
    exact ⟨_, step_reserved hp he, rfl⟩

/-! ## What an error leaves -/

/-- Settles O47: a command that does not succeed is a `raise`. -/
theorem failedCommandChangesOnlyStatus : Obligations.FailedCommandChangesOnlyStatus := by
  intro i s t h he
  obtain ⟨d, hd, hx⟩ := exec_eq_finish i s
  rcases finish_next (hx ▸ h) with ⟨c, -, rfl⟩ | ⟨-, rfl⟩
  · rfl
  · exact absurd hd he

end Sys2Proof.Machine
end

section
/-! PROOFS. The steps that run no command: the wait of R127, the word access that R32 withholds from
the KEYMEM window, and reset (R127, R34). -/

namespace Sys2Proof.Machine

/-! ## Waiting -/

/-- Settles O8: a step with no access to come is idle. -/
theorem stepWaitsForTheHost : Obligations.StepWaitsForTheHost :=
  fun _ hp => step_idle hp

/-! ## Word access to `KEYMEM` -/

theorem inKeymemWindow_eq_true {off : Nat} (hlo : 0x40 ≤ off) (hhi : off < 0x78) :
    inKeymemWindow off = true := decide_eq_true ⟨hlo, hhi⟩

/-- The window does not hold `REG.CMD`, so a `WR` there is no command write. -/
theorem access_wr_refused (s : State) {off : Nat} (v : Word) (hlo : 0x40 ≤ off) (hhi : off < 0x78) :
    access (.wr off v) s = .refused (.wordAccessToKeymem off) := by
  have hcmd : off ≠ 0 := by omega
  simp [access, hcmd, inKeymemWindow_eq_true hlo hhi]

theorem access_rd_refused (s : State) {off : Nat} (hlo : 0x40 ≤ off) (hhi : off < 0x78) :
    access (.rd off) s = .refused (.wordAccessToKeymem off) := by
  simp [access, inKeymemWindow_eq_true hlo hhi]

/-- Settles O17: the step is the host's access, which the window refuses in both forms. -/
theorem wordAccessToKeymemIsRefused : Obligations.WordAccessToKeymemIsRefused := by
  intro s off v rest hlo hhi
  constructor
  · intro hp
    rw [step_access hp, access_wr_refused _ v hlo hhi]
  · intro hp
    rw [step_access hp, access_rd_refused _ hlo hhi]

/-! ## Reset -/

@[simp] theorem access_reset (s : State) : access .reset s = .next s.applyReset := rfl

theorem step_reset {s : State} {rest : List Access} (hp : s.pending = .reset :: rest) :
    step s = .next (s.withPending rest).applyReset := by
  rw [step_access hp, access_reset]

/-- Settles O18: `applyReset` is the reset state of R34, as `resetValuesAsListed` lists it, but for
the size of the memory and the host's own two lists. -/
theorem resetGivesTheResetValues : Obligations.ResetGivesTheResetValues := by
  intro s rest hp
  obtain ⟨hinit0, hinit1, herr, hstatus, hresult, hregs⟩ := resetValuesAsListed
  obtain ⟨hkeylen, hinBase, hinLen, hinOff, houtBase, houtLen, houtOff⟩ := hregs
  exact ⟨_, step_reset hp, hinit0, hinit1, hstatus, herr, hresult, hkeylen, hinBase, hinLen,
    hinOff, houtBase, houtLen, houtOff, rfl, rfl, rfl⟩

end Sys2Proof.Machine
end
